-- ==== Sys2Proof/Word.lean ====
section
/-! DEFINITION. The word and byte types (R10, R14): every value is an unsigned bit vector, bit 0 least significant. -/

namespace Sys2Proof

/-- A register word, buffer word, control word or Link Value: 32 bits (R10). -/
abbrev Word := BitVec 32

/-- A wire byte, or one lane of a buffer word (R17, R50). -/
abbrev Byte := BitVec 8

/-- One host request as it stands on the request port: format HOSTREQ, 33 bits (R81). -/
abbrev HostReqWord := BitVec 33

/-- One access as it stands on the register port: format REGPORT, 39 bits out (R85). -/
abbrev RegPortWord := BitVec 39

/-- One response as it stands on the response port: format HOSTRSP, 36 bits (R83). -/
abbrev HostRspWord := BitVec 36

end Sys2Proof
end

