-- ==== Sys2Proof/Config.lean ====
section
/-! DEFINITION. The configuration record CFG (R8), when it is well formed (R9), the reference
configuration CFG_REF (R8, D5 to D18), and the free values of the model. -/

namespace Sys2Proof

/-- LANE_ORDER (R8, R55): which byte lane of a buffer word holds the earlier wire byte. -/
inductive LaneOrder where
  /-- wire byte 0 is bits 31:24 of word 0 -/
  | msbFirst
  /-- wire byte 0 is bits 7:0 of word 0 -/
  | lsbFirst
  deriving DecidableEq, Repr

/-- CFG (R8): everything the source leaves to the hardware contract. An index is the 5-bit `rp_index` of
the register port (R85), a channel the 2-bit field of R10, POLL_BIT a bit number of a 32-bit word. -/
structure Cfg where
  /-- NCTRL: number of words of the control/status register file -/
  nctrl : Nat
  /-- CW_INDEX: the control register that receives the transfer control word -/
  cwIndex : BitVec 5
  /-- STATUS_INDEX: the register that receives the status-clear value -/
  statusIndex : BitVec 5
  /-- ERRCLR_INDEX: the register that receives the error-flag clear pattern -/
  errclrIndex : BitVec 5
  /-- POLL_INDEX: the register whose bit the executor polls -/
  pollIndex : BitVec 5
  /-- POLL_BIT: the bit of it that reads 1 while a transfer is in flight -/
  pollBit : Fin 32
  /-- STATUS_CLEAR_VALUE -/
  statusClearValue : Word
  /-- ERRCLR_VALUE -/
  errclrValue : Word
  /-- CHAN: the channel every command uses -/
  chan : BitVec 2
  /-- POS_CHSEL -/
  posChsel : Nat
  /-- POS_CHEN -/
  posChen : Nat
  /-- POS_OUTLEN -/
  posOutlen : Nat
  /-- POS_INLEN -/
  posInlen : Nat
  /-- POS_CMDEN -/
  posCmden : Nat
  /-- POS_CHDUP -/
  posChdup : Nat
  /-- POS_START -/
  posStart : Nat
  /-- LANE_ORDER -/
  laneOrder : LaneOrder
  /-- CLR_ID_WORDS: how many buffer words JB_RESET and JB_PING zero -/
  clrIdWords : Nat
  /-- POLL_LIMIT: the bound on the number of reads in one poll loop, if any -/
  pollLimit : Option Nat
  deriving DecidableEq, Repr

/-- The seven control word fields as (least significant bit, width), in the order of R33. -/
def Cfg.fields (c : Cfg) : List (Nat × Nat) :=
  [(c.posChsel, 2), (c.posChen, 1), (c.posOutlen, 7), (c.posInlen, 7), (c.posCmden, 1),
    (c.posChdup, 2), (c.posStart, 1)]

/-- Two fields share no bit. -/
abbrev fieldsDisjoint (a b : Nat × Nat) : Prop :=
  a.1 + a.2 ≤ b.1 ∨ b.1 + b.2 ≤ a.1

/-- CFG is well formed (R9): the constraints of R8's table hold, the seven control word fields lie
inside bits 31 to 0, and no two of them share a bit. -/
def Cfg.wellFormed (c : Cfg) : Bool := decide <|
  (1 ≤ c.nctrl ∧ c.nctrl ≤ 32) ∧
  (c.cwIndex.toNat < c.nctrl ∧ c.statusIndex.toNat < c.nctrl ∧
    c.errclrIndex.toNat < c.nctrl ∧ c.pollIndex.toNat < c.nctrl) ∧
  (∀ f ∈ c.fields, f.1 + f.2 ≤ 32) ∧
  c.fields.Pairwise fieldsDisjoint ∧
  (c.clrIdWords = 8 ∨ c.clrIdWords = 32) ∧
  (∀ m ∈ c.pollLimit, 1 ≤ m)

/-- CFG_REF (R8): the reference configuration of the printed vectors, no value of which is in the
source (PRESUMED, assumption 2). -/
def Cfg.ref : Cfg where
  nctrl := 16
  cwIndex := 13
  statusIndex := 14
  errclrIndex := 14
  pollIndex := 13
  pollBit := 0
  statusClearValue := 0x80000000
  errclrValue := 0x000F0000
  chan := 1
  posChsel := 25
  posChen := 24
  posOutlen := 16
  posInlen := 8
  posCmden := 7
  posChdup := 1
  posStart := 0
  laneOrder := .msbFirst
  clrIdWords := 32
  pollLimit := none

/-- The free value of the oracle (R38): the word the controller presents to a read, applied to the
number of reads made so far. It has no body: any controller is admitted (assumption 4). -/
opaque Config.draw : Nat → Word

/-- CTRL_BASE (R52, D26): left open by the spec, read by no rule and by no definition (assumption 20). -/
opaque Config.ctrlBase : Nat

/-- BUF_BASE (R52, D26): left open by the spec, read by no rule and by no definition (assumption 20). -/
opaque Config.bufBase : Nat

end Sys2Proof
end

