-- ==== Sys2Proof/Machine/Format.lean ====
section
/-! DEFINITION. The formats the block lays out and takes apart: byte lanes and `pack` (20_memory.md), the
command frames and the control word (30_encoding.md, 42_descriptor_encoder.md). -/

namespace Sys2Proof.Machine

/-! ### Byte lanes of a buffer word -/

/-- `lane_lo(k)` (R55): the least significant bit of the lane of wire byte `k` in its word. -/
def laneLo : LaneOrder → Nat → Nat
  | .msbFirst, k => 24 - 8 * (k % 4)
  | .lsbFirst, k => 8 * (k % 4)

/-- Wire byte `k` as it stands in the buffer word it belongs to (R55). -/
def laneByte (o : LaneOrder) (w : Word) (k : Nat) : Byte :=
  w.extractLsb' (laneLo o k) 8

/-- The lane of wire byte `k`, holding byte `k` of the frame `f`, or 0 where the frame has no such byte (R56). -/
def packLane (o : LaneOrder) (f : List Byte) (k : Nat) : Word :=
  match f[k]? with
  | some b => b.setWidth 32 <<< laneLo o k
  | none => 0

/-- `pack(f, j)` (R56): the word to write at buffer index `j` for the frame `f`. -/
def pack (o : LaneOrder) (f : List Byte) (j : Nat) : Word :=
  packLane o f (4 * j) ||| packLane o f (4 * j + 1) ||| packLane o f (4 * j + 2)
    ||| packLane o f (4 * j + 3)

/-! ### Command frames -/

/-- Header byte of JB_RESET (R88). -/
def headerReset : Byte := 0xFF

/-- Header byte of JB_PING (R88). -/
def headerPing : Byte := 0x00

/-- Header byte of JB_READ (R88). -/
def headerRead : Byte := 0x14

/-- Header byte of JB_WRITE (R88). -/
def headerWrite : Byte := 0x15

/-- The payload of JB_WRITE, most significant byte first (R57, R91). -/
def payload (v : Word) : List Byte :=
  [v.extractLsb' 24 8, v.extractLsb' 16 8, v.extractLsb' 8 8, v.extractLsb' 0 8]

/-- The Link Value whose payload is these four bytes in wire order (R88). -/
def payloadValue (p0 p1 p2 p3 : Byte) : Word :=
  p0 ++ p1 ++ p2 ++ p3

/-! ### The transfer control word -/

/-- The operand masks of ENCODE (R90): the channel to 2 bits. -/
def maskChannel (channel : Word) : Word := channel &&& 0x3

/-- The operand masks of ENCODE (R90): a length to 7 bits. -/
def maskLength (len : Word) : Word := len &&& 0x7F

/-- `encode_word(channel, input_len, output_len)` (R130): the control word, every bit outside the seven
fields 0. -/
def encodeWord (c : Cfg) (channel inputLen outputLen : Word) : Word :=
  maskChannel channel <<< c.posChsel ||| (1 : Word) <<< c.posChen
    ||| maskLength outputLen <<< c.posOutlen ||| maskLength inputLen <<< c.posInlen
    ||| (1 : Word) <<< c.posCmden ||| maskChannel channel <<< c.posChdup
    ||| (1 : Word) <<< c.posStart

/-- The CHSEL field of a control word (R135). -/
def cwChannel (c : Cfg) (w : Word) : Word := (w.extractLsb' c.posChsel 2).setWidth 32

/-- The CHDUP field of a control word (R135). -/
def cwMirror (c : Cfg) (w : Word) : Word := (w.extractLsb' c.posChdup 2).setWidth 32

/-- The INLEN field of a control word (R135). -/
def cwInputLen (c : Cfg) (w : Word) : Word := (w.extractLsb' c.posInlen 7).setWidth 32

/-- The OUTLEN field of a control word (R135). -/
def cwOutputLen (c : Cfg) (w : Word) : Word := (w.extractLsb' c.posOutlen 7).setWidth 32

end Sys2Proof.Machine
end

