-- ==== Sys2Proof/Syntax.lean ====
section
/-! DEFINITION. The fourteen operations of the block (R2), one constructor per row of the opcode table. -/

namespace Sys2Proof

/-- The block's operations (R2, R18). Level H: what a collaborator may ask of the block. Level J: what the
block asks of the peripheral. Level U: the units and port accesses the sequencer uses. -/
inductive Instr where
  /-- `tick()` (R173). `reqValue` is the request's `req_value`, ignored whatever it is (R81). -/
  | tick (reqValue : Word)
  /-- `transact(value)` (R175). -/
  | transact (value : Word)
  /-- `jb_reset()` (R158): frame `FF`. -/
  | jbReset
  /-- `jb_ping()` (R159): frame `00`. -/
  | jbPing
  /-- `jb_read()` (R160): frame `14`. -/
  | jbRead
  /-- `jb_write(value)` (R161): frame `15 p0 p1 p2 p3`. -/
  | jbWrite (value : Word)
  /-- `encode(channel, input_len, output_len)` (R130 to R132): operands are 32-bit and masked (R90). -/
  | encode (channel inputLen outputLen : Word)
  /-- `execute(control_word)` (R140): its operand is the control word held in `cw_r`. -/
  | execute
  /-- `swap32(x)` (R120). -/
  | swap32 (x : Word)
  /-- `swap16_halves(x)` (R121). -/
  | swap16h (x : Word)
  /-- `write_control(index, value)` (R110). -/
  | writeControl (index : BitVec 5) (value : Word)
  /-- `read_control(index)` (R111). `wdata` is `rp_wdata`, ignored on a read (R85). -/
  | readControl (index : BitVec 5) (wdata : Word)
  /-- `write_buffer(index, value)` (R112). -/
  | writeBuffer (index : BitVec 5) (value : Word)
  /-- `read_buffer(index)` (R113). `wdata` is `rp_wdata`, ignored on a read (R85). -/
  | readBuffer (index : BitVec 5) (wdata : Word)
  deriving DecidableEq, Repr

end Sys2Proof
end

