-- ==== Sys2Proof/WellFormed.lean ====
section
/-! DEFINITION. Which operations have an encoding under a configuration. -/

namespace Sys2Proof

/-- The operation can stand in its own encoding under CFG: a control register index is below NCTRL (R85,
R110, R111), and ENCODE's operands fit the fields of the control word that the bus controller decodes
(R10, R135). ENCODE itself is defined on wider operands too, which it masks (R90, R96): this predicate
says what `encode` and `decode` carry, not what runs (assumption 18). -/
def Instr.wellFormed (c : Cfg) : Instr → Bool
  | .encode channel inputLen outputLen =>
      decide (channel.toNat < 4 ∧ inputLen.toNat < 128 ∧ outputLen.toNat < 128)
  | .writeControl index _ => decide (index.toNat < c.nctrl)
  | .readControl index _ => decide (index.toNat < c.nctrl)
  | .tick _ | .transact _ | .jbReset | .jbPing | .jbRead | .jbWrite _ | .execute
  | .swap32 _ | .swap16h _ | .writeBuffer _ _ | .readBuffer _ _ => true

end Sys2Proof
end

