-- ==== Sys2Proof/Decode.lean ====
section
/-! DEFINITION. The decoder and the encoder. The block has no instruction memory: an operation stands on a
port, in the control word, in a command frame, or in nothing but the invocation of a fixed-function unit
(R80, R93); `Packet` says which. -/

namespace Sys2Proof

open Sys2Proof.Machine

/-- Where an operation stands, with its bits (R80). That ENCODE stands in a word of 32 bits, and only the other
three units of R93 in packets of width 0, is the model's choice (DESIGN CHOICE, assumption 26). -/
inductive Packet where
  /-- the host request port, format HOSTREQ (R81) -/
  | hostReq (w : HostReqWord)
  /-- the register port, format REGPORT (R85) -/
  | regPort (w : RegPortWord)
  /-- a transfer control word, format CW32 (R86): here it presents the ENCODE that produces it (assumption 26) -/
  | controlWord (w : Word)
  /-- a command frame in wire order, formats JBF1 and JBF5 (R88) -/
  | frame (bytes : List Byte)
  /-- the invocation of EXECUTE: zero selecting bits (R93) -/
  | execute
  /-- the invocation of SWAP32 on an operand: zero selecting bits (R93) -/
  | swap32 (x : Word)
  /-- the invocation of SWAP16H on an operand: zero selecting bits (R93) -/
  | swap16h (x : Word)
  deriving DecidableEq, Repr

/-- The number of selecting and operand bits of the packet's format (R80). Zero for EXECUTE, SWAP32 and SWAP16H
(R93); 32 for ENCODE as opcode_table.json has it, where R93 says zero (DESIGN CHOICE, assumption 26). -/
def Packet.width : Packet → Nat
  | .hostReq _ => 33
  | .regPort _ => 39
  | .controlWord _ => 32
  | .frame bytes => 8 * bytes.length
  | .execute | .swap32 _ | .swap16h _ => 0

/-- Why a packet names no operation. -/
inductive DecodeError where
  /-- a command frame of no bytes: there is no header byte to tell the command (R93) -/
  | emptyFrame
  /-- a header byte other than the four (R95) -/
  | unknownHeader (header : Byte)
  /-- a JB_WRITE header with fewer than four payload bytes after it (R97) -/
  | truncatedFrame
  /-- bytes after the end of the frame that the header byte announces (R97) -/
  | trailingBytes
  /-- a control word whose two channel fields differ: never produced by the block (R87) -/
  | channelNotMirrored
  /-- a control word with an enable or start flag clear, or a bit outside the seven fields set (R33, R96) -/
  | controlWordBits
  /-- a control register index that is not below NCTRL (R85, R114) -/
  | indexOutsideWindow
  deriving DecidableEq, Repr

/-- HOSTREQ (R81, R93): bit 32 alone selects the operation; there is no reserved encoding (R94). -/
def decodeHostReq (w : HostReqWord) : Instr :=
  if w.getLsbD 32 then .transact (w.setWidth 32) else .tick (w.setWidth 32)

/-- REGPORT (R85, R93): bits 38:37 select the operation; a `CTRL` index is below NCTRL. -/
def decodeRegPort (c : Cfg) (w : RegPortWord) : Except DecodeError Instr :=
  let index := w.extractLsb' 32 5
  let data := w.setWidth 32
  match w.getLsbD 38, w.getLsbD 37 with
  | true, true => .ok (.writeBuffer index data)
  | true, false => .ok (.readBuffer index data)
  | false, true =>
      if index.toNat < c.nctrl then .ok (.writeControl index data) else .error .indexOutsideWindow
  | false, false =>
      if index.toNat < c.nctrl then .ok (.readControl index data) else .error .indexOutsideWindow

/-- CW32 (R86, R135): the fields of a word that ENCODE produces. Any other word is refused by name
(assumption 24). -/
def decodeControlWord (c : Cfg) (w : Word) : Except DecodeError Instr :=
  if cwChannel c w ≠ cwMirror c w then .error .channelNotMirrored
  else if w ≠ encodeWord c (cwChannel c w) (cwInputLen c w) (cwOutputLen c w) then
    .error .controlWordBits
  else .ok (.encode (cwChannel c w) (cwInputLen c w) (cwOutputLen c w))

/-- JBF1, JBF5 (R88, R93): the first wire byte selects the command and with it the frame length. Answers
the command and the bytes after its frame. -/
def decodeFrame : List Byte → Except DecodeError (Instr × List Byte)
  | [] => .error .emptyFrame
  | h :: rest =>
      if h = headerReset then .ok (.jbReset, rest)
      else if h = headerPing then .ok (.jbPing, rest)
      else if h = headerRead then .ok (.jbRead, rest)
      else if h = headerWrite then
        match rest with
        | p0 :: p1 :: p2 :: p3 :: tail => .ok (.jbWrite (payloadValue p0 p1 p2 p3), tail)
        | _ => .error .truncatedFrame
      else .error (.unknownHeader h)

/-- The decoder: total on every packet, refusing by name. -/
def decode (c : Cfg) : Packet → Except DecodeError Instr
  | .hostReq w => .ok (decodeHostReq w)
  | .regPort w => decodeRegPort c w
  | .controlWord w => decodeControlWord c w
  | .frame bytes =>
      match decodeFrame bytes with
      | .ok (i, []) => .ok i
      | .ok (_, _ :: _) => .error .trailingBytes
      | .error e => .error e
  | .execute => .ok .execute
  | .swap32 x => .ok (.swap32 x)
  | .swap16h x => .ok (.swap16h x)

/-- HOSTREQ of a `req_op` and a `req_value` (R81). -/
def hostReqWord (op : BitVec 1) (value : Word) : HostReqWord := op ++ value

/-- REGPORT of `rp_sel`, `rp_we`, `rp_index`, `rp_wdata` (R85). -/
def regPortWord (sel we : BitVec 1) (index : BitVec 5) (wdata : Word) : RegPortWord :=
  sel ++ we ++ index ++ wdata

/-- The encoder: the packet of a well-formed operation, from the same format tables (R81, R85, R86, R88, R93).
ENCODE has the packet of the word it produces (DESIGN CHOICE, assumption 26). -/
def encode (c : Cfg) : Instr → Packet
  | .tick reqValue => .hostReq (hostReqWord 0 reqValue)
  | .transact value => .hostReq (hostReqWord 1 value)
  | .jbReset => .frame [headerReset]
  | .jbPing => .frame [headerPing]
  | .jbRead => .frame [headerRead]
  | .jbWrite value => .frame (headerWrite :: payload value)
  | .encode channel inputLen outputLen => .controlWord (encodeWord c channel inputLen outputLen)
  | .execute => .execute
  | .swap32 x => .swap32 x
  | .swap16h x => .swap16h x
  | .writeControl index value => .regPort (regPortWord 0 1 index value)
  | .readControl index wdata => .regPort (regPortWord 0 0 index wdata)
  | .writeBuffer index value => .regPort (regPortWord 1 1 index value)
  | .readBuffer index wdata => .regPort (regPortWord 1 0 index wdata)

/-- The bytes of a word of the opcode table, most significant first: the table writes a command frame
with wire byte 0 in the most significant byte (R88). -/
def tableBytes (nbytes w : Nat) : List Byte :=
  (List.range nbytes).map fun j => BitVec.ofNat 8 (w >>> (8 * (nbytes - 1 - j)))

/-- The packet of a word numbered as the opcode table numbers it. The width tells the format, but for 40
bits, which is HOSTREQ (33) and REGPORT (39) rounded to whole bytes as well as JBF5: there the top byte
tells, `0x15` being a JB_WRITE frame, 0 and 1 a host request, and the rest the register port
(assumption 17). A width of 0 bits holds nothing that could tell the three fixed-function units apart
(R93): no packet. -/
def tablePacket (nbits w : Nat) : Option Packet :=
  if 2 ^ nbits ≤ w then none
  else if nbits = 8 then some (.frame (tableBytes 1 w))
  else if nbits = 32 then some (.controlWord (BitVec.ofNat 32 w))
  else if nbits = 33 then some (.hostReq (BitVec.ofNat 33 w))
  else if nbits = 39 then some (.regPort (BitVec.ofNat 39 w))
  else if nbits = 40 then
    if w >>> 32 = 0x15 then some (.frame (tableBytes 5 w))
    else if w >>> 33 = 0 then some (.hostReq (BitVec.ofNat 33 w))
    else if w >>> 39 = 0 then some (.regPort (BitVec.ofNat 39 w))
    else none
  else none

/-- The decoder on a word of the opcode table, under CFG_REF: the table's control word row holds under
CFG_REF only (R87). -/
def decodeTableWord (nbits w : Nat) : Option Instr :=
  match tablePacket nbits w with
  | some p =>
      match decode Cfg.ref p with
      | .ok i => some i
      | .error _ => none
  | none => none

end Sys2Proof
end

