-- ==== Sys2Proof/Machine/State.lean ====
section
/-! DEFINITION. The state of the machine (10_state.md) as plain data, its reset value (R43), and the reasons
a step can stop. -/

namespace Sys2Proof.Machine

/-- The Connection State (R20). -/
inductive Conn where
  | disconnected
  | connected
  deriving DecidableEq, Repr

/-- The ten values of the sequencer phase register (R21). -/
inductive Phase where
  /-- waits for a host request -/
  | idle
  /-- zeroes one buffer word -/
  | clr
  /-- writes buffer word 0 -/
  | fill0
  /-- writes buffer word 1 -/
  | fill1
  /-- writes the error-flag clear pattern -/
  | errclr
  /-- writes the status-clear value and latches the control word -/
  | enc
  /-- polls until no transfer is in flight -/
  | poll1
  /-- writes the control word -/
  | arm
  /-- polls until the transfer has ended -/
  | poll2
  /-- reads buffer word 0 and completes the command -/
  | resp
  deriving DecidableEq, Repr

/-- The host operations (R23). -/
inductive HostOp where
  | tick
  | transact
  deriving DecidableEq, Repr

/-- The JOYBUS commands (R24). -/
inductive Command where
  | reset
  | ping
  | read
  | write
  deriving DecidableEq, Repr

/-- The error codes of a response (R190). -/
inductive RspErr where
  | ok
  | notConnected
  | busTimeout
  deriving DecidableEq, Repr

/-- The optional event of a response (R83): none, or a LinkEvent. -/
inductive RspEvent where
  | noEvent
  | attached
  | detached
  deriving DecidableEq, Repr

/-- One response on the host response port (R83). -/
structure Response where
  err   : RspErr
  event : RspEvent
  value : Word
  deriving DecidableEq, Repr

/-- One access on the register port with the word written or the word that came back (R85). -/
inductive Access where
  | writeControl (index : BitVec 5) (value : Word)
  | readControl (index : BitVec 5) (rdata : Word)
  | writeBuffer (index : BitVec 5) (value : Word)
  | readBuffer (index : BitVec 5) (rdata : Word)
  deriving DecidableEq, Repr

/-- Why the machine stops with a fault, or a run has a fault outcome. -/
inductive Fault where
  /-- Raised by a RESP step with JB_WRITE in `cmd_r`: R157 has no such arm and R143 never leads there. Safe:
  no state that satisfies `State.Inv` takes such a step (assumption 15). -/
  | respAfterWrite
  /-- The fault outcome of a run in which a TRANSACT was accepted while Disconnected (R176, U1, C7): put on record
  by `State.raise` and answered by `runOutcome`. No step stops with it, since R192 says that the block goes on.
  Safe (assumption 8). -/
  | notConnected
  /-- The fault outcome of a run in which a poll loop came to its bound (R193, U2): put on record by `State.raise`
  and answered by `runOutcome`. No step stops with it, since the block goes on (R200). Safe (assumption 8). -/
  | busTimeout
  deriving DecidableEq, Repr

/-- The bytes of one register window that the block has written: (address, byte) pairs, addresses strictly
rising. Byte `4 * i + j` is lane `j` of word `i`; in the Command Buffer it is wire byte `4 * i + j`
(R50, R55). An address that is not listed has not been written: the model gives it no contents
(assumption 5). -/
abbrev Memory := List Host.Cell

/-- The canonical form: addresses strictly rising. -/
def Memory.wf (m : Memory) : Bool :=
  decide (m.Pairwise fun a b => a.1 < b.1)

/-- The state. The first group is what the block owns (R20 to R30), the second the two windows it reaches
(R32, R41), the third its ports and inputs (R31, R82 to R85, R220, R38), the last the model's own fields. -/
structure State where
  /-- CFG (R8, R13): fixed for the machine, written by no step (assumption 1) -/
  cfg : Cfg
  /-- `conn` (R20) -/
  conn : Conn
  /-- `ph` (R21) -/
  ph : Phase
  /-- `op_r` (R23) -/
  opR : HostOp
  /-- `val_r` (R23) -/
  valR : Word
  /-- `cmd_r` (R24) -/
  cmdR : Command
  /-- `k` (R25) -/
  k : BitVec 5
  /-- `cw_r` (R26) -/
  cwR : Word
  /-- `rw_r` (R27) -/
  rwR : Word
  /-- `s.n` of the step rules (R141, R142, R143, R145, R156): incremented where a poll read shows the busy bit as 1,
  compared with the bound. Exists only when POLL_LIMIT is set, and is not touched otherwise (assumption 23) -/
  n : Nat
  /-- the count of R30: the reads made in the current poll loop, incremented by each POLL1 or POLL2 step. Equal to
  `n` while a loop goes on; the read that ends a loop is counted here and, by the pseudocode, not there
  (assumption 25). Exists as `n` does -/
  loopReads : Nat
  /-- `CTRL` (R32): what the block has written to the control/status register file -/
  ctrl : Memory
  /-- `BUF` (R41): what the block has written to the Command Buffer -/
  buf : Memory
  /-- the register port in the last step (R85): none where `rp_valid` was 0 -/
  rp : Option Access
  /-- the response port in the last step (R83, R84): none where `rsp_valid` was 0 -/
  rsp : Option Response
  /-- input: the requests the host has still to present, the head being on the request port (R82,
  assumption 7) -/
  reqs : List HostReqWord
  /-- input: `rst` is 1 at the next clock edge (R220) -/
  rst : Bool
  /-- input: the words the controller will present to the coming reads (R38) -/
  answers : List Word
  /-- the model's own: how many reads have been made, the argument of the free value that answers a read
  when `answers` is empty (assumption 4) -/
  draws : Nat
  /-- the model's own: an operation presented to the block for its next step otherwise than by the host or
  the sequencer (assumption 10) -/
  presented : Option Packet
  /-- the model's own: the result of the last SWAP32 or SWAP16H operation (assumption 11) -/
  convOut : Word
  /-- the model's own: the fault outcomes of the run so far, oldest first (R176, U1, U2; assumption 8). The block
  itself keeps no error state (R200): no step reads this field. -/
  faults : List Fault
  deriving DecidableEq, Repr

/-- The machine right after reset (R43, R220) under CFG_REF. `conn`, `ph`, the response port: R43. The
registers that R43 leaves unspecified hold the values of assumption 3; the windows list nothing, since
the block's reset does not write them; no request is presented. -/
def State.reset : State where
  cfg := Cfg.ref
  conn := .disconnected
  ph := .idle
  opR := .tick
  valR := 0
  cmdR := .reset
  k := 0
  cwR := 0
  rwR := 0
  n := 0
  loopReads := 0
  ctrl := []
  buf := []
  rp := none
  rsp := none
  reqs := []
  rst := false
  answers := []
  draws := 0
  presented := none
  convOut := 0
  faults := []

/-- Why the machine refuses a step. -/
inductive Refusal where
  /-- Raised by no arm of `exec`: every operation has its meaning. Safe. -/
  | notModelled (mnemonic : String)
  /-- Raised by a register port access whose index is outside its window (R114, U4). Safe: the spec gives
  such an access no meaning, and the sequencer cannot emit one (R53, assumption 14). -/
  | indexOutsideWindow
  /-- Raised by a step under a configuration that is not well formed (R9, U14, assumption 14). Safe: the
  spec says refuse. -/
  | cfgNotWellFormed
  /-- Raised by a step for which a packet that names no operation was presented (R87, R95, R97). Safe. -/
  | undecodable (e : DecodeError)
  deriving DecidableEq, Repr

end Sys2Proof.Machine
end

