-- ==== Sys2Proof/Machine/Operands.lean ====
section
/-! DEFINITION. The fixed command table (R150), the command words (R92), and the two swaps (R120, R121). -/

namespace Sys2Proof.Machine

/-- The command frame in wire order (R88, R150). -/
def Command.frame (c : Command) (v : Word) : List Byte :=
  match c with
  | .reset => [headerReset]
  | .ping => [headerPing]
  | .read => [headerRead]
  | .write => headerWrite :: payload v

/-- `in` of the command table (R150): the bytes asked back. -/
def Command.inLen : Command → Word
  | .reset => 3
  | .ping => 3
  | .read => 4
  | .write => 1

/-- `out` of the command table (R150): the bytes sent. -/
def Command.outLen : Command → Word
  | .reset => 1
  | .ping => 1
  | .read => 1
  | .write => 5

/-- `N_clr` of the command table (R150): the buffer words zeroed. -/
def Command.nClr (cfg : Cfg) : Command → Nat
  | .reset => cfg.clrIdWords
  | .ping => cfg.clrIdWords
  | .read => 32
  | .write => 32

/-- The operation that a command is, with its operand. -/
def Command.instr (c : Command) (v : Word) : Instr :=
  match c with
  | .reset => .jbReset
  | .ping => .jbPing
  | .read => .jbRead
  | .write => .jbWrite v

/-- `W0` (R92, R153): the word for `BUF[0]`. -/
def word0 (cfg : Cfg) (c : Command) (v : Word) : Word := pack cfg.laneOrder (c.frame v) 0

/-- `W1` (R92, R154): the word for `BUF[1]`, which holds `p3` in the lane of wire byte 4. It is written by
JB_WRITE only, so it is that command's. -/
def word1 (cfg : Cfg) (v : Word) : Word := pack cfg.laneOrder (Command.frame .write v) 1

/-- The control word of a command (R136, R156). -/
def commandWord (cfg : Cfg) (c : Command) : Word :=
  encodeWord cfg (cfg.chan.setWidth 32) c.inLen c.outLen

/-- `swap32(x)` (R120): the four bytes in reverse order. -/
def swap32 (x : Word) : Word :=
  x.extractLsb' 0 8 ++ x.extractLsb' 8 8 ++ x.extractLsb' 16 8 ++ x.extractLsb' 24 8

/-- `swap16_halves(x)` (R121): the two halves exchanged, the bytes inside each half in place. -/
def swap16Halves (x : Word) : Word :=
  x.extractLsb' 0 16 ++ x.extractLsb' 16 16

end Sys2Proof.Machine
end

