-- ==== Sys2Proof/Machine/ByteOrder.lean ====
section
/-! DEFINITION. The Byte-Order Converter operations (41_byte_order.md): combinational, no port access, no state of
the block read or written. The result is held in the model's own `convOut` (assumption 11). -/

namespace Sys2Proof.Machine

/-- SWAP32 (R120). -/
def execSwap32 (x : Word) (s : State) : Host.Outcome State Fault Refusal :=
  .next { s with convOut := swap32 x }

/-- SWAP16H (R121). -/
def execSwap16h (x : Word) (s : State) : Host.Outcome State Fault Refusal :=
  .next { s with convOut := swap16Halves x }

end Sys2Proof.Machine
end

