-- ==== Sys2Proof/Machine/Ops.lean ====
section
/-! DEFINITION. The named operations over the windows, the ports and the oracle; the error response that ends
a host operation (R199), and reset (R220). There is no operation that returns from an error response
(R200): the host's next request is all that follows. -/

namespace Sys2Proof.Machine

/-! ### The bytes of a register window -/

/-- The byte the block last wrote at an address, if it has written one. -/
def Memory.read : Memory → Nat → Option Byte
  | [], _ => none
  | (b, v) :: rest, a => if a = b then some v else Memory.read rest a

/-- Write one byte, keeping the addresses strictly rising. -/
def Memory.write : Memory → Nat → Byte → Memory
  | [], a, v => [(a, v)]
  | (b, w) :: rest, a, v =>
      if a < b then (a, v) :: (b, w) :: rest
      else if a = b then (a, v) :: rest
      else (b, w) :: Memory.write rest a v

/-- Write one whole word (R51, R60), lane by lane: byte `4 * i + j` receives lane `j`. -/
def Memory.storeWord (o : LaneOrder) (m : Memory) (i : Nat) (v : Word) : Memory :=
  Memory.write (Memory.write (Memory.write (Memory.write m
    (4 * i) (laneByte o v 0)) (4 * i + 1) (laneByte o v 1))
    (4 * i + 2) (laneByte o v 2)) (4 * i + 3) (laneByte o v 3)

/-- The word that four bytes make, byte `j` in lane `j` (R55). -/
def joinLanes (o : LaneOrder) (b0 b1 b2 b3 : Byte) : Word :=
  match o with
  | .msbFirst => b0 ++ b1 ++ b2 ++ b3
  | .lsbFirst => b3 ++ b2 ++ b1 ++ b0

/-- The word the block last wrote at word index `i`, if it has written all of it. -/
def Memory.loadWord (o : LaneOrder) (m : Memory) (i : Nat) : Option Word :=
  match Memory.read m (4 * i), Memory.read m (4 * i + 1), Memory.read m (4 * i + 2),
      Memory.read m (4 * i + 3) with
  | some b0, some b1, some b2, some b3 => some (joinLanes o b0 b1 b2 b3)
  | _, _, _, _ => none

/-- The order in which a control register's bytes are listed: not observable, since every access moves the
whole word (R51, assumption 6). -/
def ctrlLanes : LaneOrder := .lsbFirst

/-- The word the block last wrote to `CTRL[i]`. -/
def State.ctrlWord (s : State) (i : Nat) : Option Word := Memory.loadWord ctrlLanes s.ctrl i

/-- The word the block last wrote to `BUF[i]`. -/
def State.bufWord (s : State) (i : Nat) : Option Word := Memory.loadWord s.cfg.laneOrder s.buf i

/-- Wire byte `k` of the frame that stands in the Command Buffer (R55). -/
def State.wireByte (s : State) (k : Nat) : Option Byte := Memory.read s.buf k

/-- `CTRL[i]` receives `v` (R110). -/
def State.storeCtrl (s : State) (i : Nat) (v : Word) : State :=
  { s with ctrl := Memory.storeWord ctrlLanes s.ctrl i v }

/-- `BUF[i]` receives `v` (R112). -/
def State.storeBuf (s : State) (i : Nat) (v : Word) : State :=
  { s with buf := Memory.storeWord s.cfg.laneOrder s.buf i v }

/-! ### The oracle -/

/-- The word the controller presents to the next read (R38): the next of the answers that stand in the
state, and a free value where none is left. -/
def State.nextAnswer (s : State) : Word :=
  match s.answers with
  | r :: _ => r
  | [] => Config.draw s.draws

/-- The read has been made: its answer is used up. -/
def State.takeAnswer (s : State) : State :=
  { s with answers := s.answers.tail, draws := s.draws + 1 }

/-! ### The ports -/

/-- The access stands on the register port in this step (R85). -/
def State.access (s : State) (a : Access) : State := { s with rp := some a }

/-- At the start of a step nothing is valid on the two output ports (R84, R85, assumption 21). -/
def State.clearPorts (s : State) : State := { s with rp := none, rsp := none }

/-- `respond(err, event, value)` (R84). -/
def State.respond (s : State) (err : RspErr) (event : RspEvent) (value : Word) : State :=
  { s with rsp := some ⟨err, event, value⟩ }

/-- The fault outcome of the run that a model takes an error response for (R176, U1, U2). -/
def RspErr.faults : RspErr → List Fault
  | .ok => []
  | .notConnected => [.notConnected]
  | .busTimeout => [.busTimeout]

/-- `raise`: what every exception of the block does (R192, R193, R199). Nothing is saved, the error response
is given with no event and no value, the sequencer goes to IDLE, and nothing else of the block changes. The
response is a fault outcome of the run (R176), which the model puts on record (assumption 8). -/
def State.raise (s : State) (err : RspErr) : State :=
  { State.respond s err .noEvent 0 with ph := .idle, faults := s.faults ++ err.faults }

/-! ### The four accesses to the register windows -/

/-- Feed the answer of a step's first part to its second part. -/
def andThen {α β : Type} (x : Host.Outcome α Fault Refusal)
    (f : α → Host.Outcome β Fault Refusal) : Host.Outcome β Fault Refusal :=
  match x with
  | .next a => f a
  | .fault r => .fault r
  | .refused r => .refused r

/-- `write_control(index, value)` (R110). An index outside the window is refused (R114). -/
def writeControl (index : BitVec 5) (value : Word) (s : State) : Host.Outcome State Fault Refusal :=
  if index.toNat < s.cfg.nctrl then
    .next ((s.storeCtrl index.toNat value).access (.writeControl index value))
  else .refused .indexOutsideWindow

/-- `read_control(index) -> r` (R111): `r` is what the controller presents now. -/
def readControl (index : BitVec 5) (s : State) : Host.Outcome (Word × State) Fault Refusal :=
  if index.toNat < s.cfg.nctrl then
    .next (s.nextAnswer, s.takeAnswer.access (.readControl index s.nextAnswer))
  else .refused .indexOutsideWindow

/-- `write_buffer(index, value)` (R112). The 5-bit index is always inside the window (R85). -/
def writeBuffer (index : BitVec 5) (value : Word) (s : State) : State :=
  (s.storeBuf index.toNat value).access (.writeBuffer index value)

/-- The state after `read_buffer(index)` (R113), whose result is `s.nextAnswer`. -/
def readBuffer (index : BitVec 5) (s : State) : State :=
  s.takeAnswer.access (.readBuffer index s.nextAnswer)

/-! ### Reset -/

/-- One clock edge with `rst` = 1 (R220, R221): no step is taken, the block's registers take their reset
values, no response is pending, no access is made. What is not the block's stays: CFG, the two windows,
the inputs and the record of the run. The edge uses the pulse up (assumption 16). -/
def State.applyReset (s : State) : State :=
  { State.reset with
    cfg := s.cfg, ctrl := s.ctrl, buf := s.buf, reqs := s.reqs, answers := s.answers,
    draws := s.draws, presented := s.presented, faults := s.faults, rst := false }

end Sys2Proof.Machine
end

