-- ==== Sys2Proof/Machine/DescriptorEncoder.lean ====
section
/-! DEFINITION. The Transfer Descriptor Encoder operation (42_descriptor_encoder.md). -/

namespace Sys2Proof.Machine

/-- ENCODE (R130 to R132): the status-clear write and the control word, in one step. The word is latched in
`cw_r`, which holds what ENCODE produces (R26, R156, assumption 12). -/
def execEncode (channel inputLen outputLen : Word) (s : State) :
    Host.Outcome State Fault Refusal :=
  andThen (writeControl s.cfg.statusIndex s.cfg.statusClearValue s) fun s' =>
    .next { s' with cwR := encodeWord s.cfg channel inputLen outputLen }

end Sys2Proof.Machine
end

