-- ==== Sys2Proof/Machine/Flags.lean ====
section
/-! DEFINITION. The one flag the block reads (R35), the identity test (R162), the two levels it drives (R28,
R31), and the words that stand on its output ports (R83, R85). -/

namespace Sys2Proof.Machine

/-- The busy bit of a word read from `CTRL[POLL_INDEX]` (R35, R141): every other bit is ignored. -/
def busy (c : Cfg) (r : Word) : Bool := r.getLsbD c.pollBit.val

/-- EXPECTED_ID (R4). -/
def expectedId : BitVec 16 := 0x0004

/-- The identity in a response word (R162): its upper half. -/
def identity (rw : Word) : BitVec 16 := rw.extractLsb' 16 16

/-- The comparison of R162: the expected peripheral is present. -/
def present (rw : Word) : Bool := identity rw == expectedId

/-- The `connected` output (R31). -/
def State.connectedOut (s : State) : Bool := s.conn == .connected

/-- The `req_ready` output (R28, R82). -/
def State.reqReady (s : State) : Bool := s.ph == .idle

/-- `rsp_err` (R83, R190). -/
def RspErr.code : RspErr → BitVec 2
  | .ok => 0
  | .notConnected => 1
  | .busTimeout => 2

/-- `rsp_event` (R83). -/
def RspEvent.code : RspEvent → BitVec 2
  | .noEvent => 0
  | .attached => 1
  | .detached => 2

/-- HOSTRSP (R83). -/
def Response.word (r : Response) : HostRspWord := r.err.code ++ r.event.code ++ r.value

/-- REGPORT of an access as the block drives it (R85): `rp_wdata`, ignored on a read, is 0 there. -/
def Access.word : Access → RegPortWord
  | .writeControl index value => regPortWord 0 1 index value
  | .readControl index _ => regPortWord 0 0 index 0
  | .writeBuffer index value => regPortWord 1 1 index value
  | .readBuffer index _ => regPortWord 1 0 index 0

end Sys2Proof.Machine
end

