-- ==== Sys2Proof/Machine/Executor.lean ====
section
/-! DEFINITION. The Synchronous Transfer Executor operation (43_executor.md): the phases POLL1, ARM, POLL2. -/

namespace Sys2Proof.Machine

/-- The entry of a poll loop (R30, R145): both counts are 0, where they exist. -/
def State.startCount (s : State) : State :=
  match s.cfg.pollLimit with
  | none => s
  | some _ => { s with n := 0, loopReads := 0 }

/-- A poll read has shown the busy bit as 1 (R141, R143): the phase stays, and with POLL_LIMIT set `n` is
incremented and the `n_max`-th read raises BusTimeout (R145, R193). -/
def State.pollAgain (s : State) : State :=
  match s.cfg.pollLimit with
  | none => s
  | some m =>
      if s.n + 1 = m then { s with n := s.n + 1 }.raise .busTimeout else { s with n := s.n + 1 }

/-- One more read of the current poll loop (R30), where the count exists. -/
def State.countRead (s : State) : State :=
  match s.cfg.pollLimit with
  | none => s
  | some _ => { s with loopReads := s.loopReads + 1 }

/-- The read of a POLL1 or POLL2 step (R141, R143), counted whatever it shows (R30). -/
def pollRead (s : State) : Host.Outcome (Word × State) Fault Refusal :=
  andThen (readControl s.cfg.pollIndex s) fun (r, s') => .next (r, s'.countRead)

/-- The POLL1 step (R141). -/
def poll1Step (s : State) : Host.Outcome State Fault Refusal :=
  andThen (pollRead s) fun (r, s') =>
    .next (if busy s.cfg r then s'.pollAgain else { s' with ph := .arm })

/-- The ARM step (R142). -/
def armStep (s : State) : Host.Outcome State Fault Refusal :=
  andThen (writeControl s.cfg.cwIndex s.cwR s) fun s' => .next { s'.startCount with ph := .poll2 }

/-- The transfer of a command is over (R143): after JB_WRITE the JB_READ half of TRANSACT begins, after
any other command its response is read. -/
def State.transferDone (s : State) : State :=
  if s.cmdR = .write then { s with cmdR := .read, k := 0, ph := .clr } else { s with ph := .resp }

/-- The POLL2 step (R143). -/
def poll2Step (s : State) : Host.Outcome State Fault Refusal :=
  andThen (pollRead s) fun (r, s') =>
    .next (if busy s.cfg r then s'.pollAgain else s'.transferDone)

/-- EXECUTE (R140): the next step of the executor on the control word in `cw_r`. Outside its three phases it
begins with its first poll read (assumption 10). -/
def execExecute (s : State) : Host.Outcome State Fault Refusal :=
  match s.ph with
  | .poll1 => poll1Step s
  | .arm => armStep s
  | .poll2 => poll2Step s
  | .idle | .clr | .fill0 | .fill1 | .errclr | .enc | .resp =>
      poll1Step { s.startCount with ph := .poll1 }

end Sys2Proof.Machine
end

