-- ==== Sys2Proof/Machine/Presence.lean ====
section
/-! DEFINITION. The Presence State Machine and the host operations (45_presence_and_host.md). -/

namespace Sys2Proof.Machine

/-- `finish_tick_disconnected(rw)` (R171). -/
def finishTickDisconnected (rw : Word) (s : State) : State :=
  if present rw then { s.respond .ok .attached 0 with conn := .connected }
  else s.respond .ok .noEvent 0

/-- `finish_tick_connected(rw)` (R172). -/
def finishTickConnected (rw : Word) (s : State) : State :=
  if present rw then s.respond .ok .noEvent 0
  else { s.respond .ok .detached 0 with conn := .disconnected }

/-- `finish_transact(rw)` (R175). -/
def finishTransact (rw : Word) (s : State) : State :=
  s.respond .ok .noEvent (swap32 rw)

/-- A command begins (R170): it is latched, and the clearing starts at buffer word 0. -/
def State.begin (s : State) (c : Command) : State := { s with cmdR := c, k := 0, ph := .clr }

/-- A request presented while the block is busy waits on the request port: it is neither dropped nor seen
(R28, R82, D25; assumption 13). -/
def State.holdRequest (s : State) (w : HostReqWord) : State := { s with reqs := w :: s.reqs }

/-- The command of a tick (R170): chosen from the connection state at acceptance. -/
def tickCommand : Conn → Command
  | .disconnected => .reset
  | .connected => .ping

/-- TICK (R170, R173): the step that accepts the request. The identify command's own steps follow, and its
RESP step ends the operation (R171, R172). -/
def execTick (reqValue : Word) (s : State) : Host.Outcome State Fault Refusal :=
  match s.ph with
  | .idle => .next { s.begin (tickCommand s.conn) with opR := .tick }
  | .clr | .fill0 | .fill1 | .errclr | .enc | .poll1 | .arm | .poll2 | .resp =>
      .next (s.holdRequest (hostReqWord 0 reqValue))

/-- TRANSACT (R170, R175): the step that accepts the request. While Disconnected it raises NotConnected
(R176, R192). Else the JB_WRITE's and the JB_READ's own steps follow, and the RESP step of the JB_READ
ends the operation. -/
def execTransact (value : Word) (s : State) : Host.Outcome State Fault Refusal :=
  match s.ph with
  | .idle =>
      match s.conn with
      | .disconnected => .next (s.raise .notConnected)
      | .connected => .next { s.begin .write with opR := .transact, valR := value }
  | .clr | .fill0 | .fill1 | .errclr | .enc | .poll1 | .arm | .poll2 | .resp =>
      .next (s.holdRequest (hostReqWord 1 value))

end Sys2Proof.Machine
end

