-- ==== Sys2Proof/Machine/CommandSet.lean ====
section
/-! DEFINITION. The JOYBUS Command Set operations (44_joybus_commands.md): the phases that every command shares,
and the four commands as walks through them. -/

namespace Sys2Proof.Machine

/-- The CLR step (R152). -/
def clrStep (s : State) : State :=
  let s' := writeBuffer s.k 0 s
  if s.k.toNat + 1 = s.cmdR.nClr s.cfg then { s' with ph := .fill0 } else { s' with k := s.k + 1 }

/-- The phase after FILL0 (R153). -/
def afterFill0 : Command → Phase
  | .write => .fill1
  | .read => .errclr
  | .reset => .enc
  | .ping => .enc

/-- The FILL0 step (R153). -/
def fill0Step (s : State) : State :=
  { writeBuffer 0 (word0 s.cfg s.cmdR s.valR) s with ph := afterFill0 s.cmdR }

/-- The FILL1 step (R154). -/
def fill1Step (s : State) : State :=
  { writeBuffer 1 (word1 s.cfg s.valR) s with ph := .errclr }

/-- The ERRCLR step (R155). -/
def errclrStep (s : State) : Host.Outcome State Fault Refusal :=
  andThen (writeControl s.cfg.errclrIndex s.cfg.errclrValue s) fun s' => .next { s' with ph := .enc }

/-- The ENC step (R156): one evaluation of ENCODE on the operands of the command table. -/
def encStep (s : State) : Host.Outcome State Fault Refusal :=
  andThen (execEncode (s.cfg.chan.setWidth 32) s.cmdR.inLen s.cmdR.outLen s) fun s' =>
    .next { s'.startCount with ph := .poll1 }

/-- The RESP step (R157): the one buffer read of the command and the decision taken on it. R157 gives no
decision for JB_WRITE, which never comes here (R143): a fault. -/
def respStep (s : State) : Host.Outcome State Fault Refusal :=
  let rw := s.nextAnswer
  let s' := { readBuffer 0 s with rwR := rw, ph := .idle }
  match s.cmdR with
  | .reset => .next (finishTickDisconnected rw s')
  | .ping => .next (finishTickConnected rw s')
  | .read => .next (finishTransact rw s')
  | .write => .fault .respAfterWrite

/-- The step of the command in progress (R22, R151). In IDLE no command is in progress, and nothing
changes. A phase that the graph of R22 gives to other commands is taken as its rule stands (assumption 22). -/
def phaseStep (s : State) : Host.Outcome State Fault Refusal :=
  match s.ph with
  | .idle => .next s
  | .clr => .next (clrStep s)
  | .fill0 => .next (fill0Step s)
  | .fill1 => .next (fill1Step s)
  | .errclr => errclrStep s
  | .enc => encStep s
  | .poll1 => poll1Step s
  | .arm => armStep s
  | .poll2 => poll2Step s
  | .resp => respStep s


/-- The command if it is in progress, else the command as it begins (assumption 9). -/
def State.enter (s : State) (c : Command) : State :=
  if s.ph ≠ .idle ∧ s.cmdR = c then s else s.begin c

/-- JB_RESET (R158): its next step, the first one where it is not in progress. -/
def execJbReset (s : State) : Host.Outcome State Fault Refusal := phaseStep (s.enter .reset)

/-- JB_PING (R159): its next step, the first one where it is not in progress. -/
def execJbPing (s : State) : Host.Outcome State Fault Refusal := phaseStep (s.enter .ping)

/-- JB_READ (R160): its next step, the first one where it is not in progress. -/
def execJbRead (s : State) : Host.Outcome State Fault Refusal := phaseStep (s.enter .read)

/-- JB_WRITE of a Link Value if it is in progress, else as it begins, the value latched (assumption 9). -/
def State.enterWrite (s : State) (value : Word) : State :=
  if s.ph ≠ .idle ∧ s.cmdR = .write ∧ s.valR = value then s else { s.begin .write with valR := value }

/-- JB_WRITE (R161) of a Link Value: its next step, the first one where it is not in progress. -/
def execJbWrite (value : Word) (s : State) : Host.Outcome State Fault Refusal :=
  phaseStep (s.enterWrite value)

end Sys2Proof.Machine
end

