-- ==== Sys2Proof/Machine/RegisterInterface.lean ====
section
/-! DEFINITION. The Register Interface operations (40_register_interface.md): one access of the register port each. -/

namespace Sys2Proof.Machine

/-- WRITE_CONTROL (R110). -/
def execWriteControl (index : BitVec 5) (value : Word) (s : State) :
    Host.Outcome State Fault Refusal :=
  writeControl index value s

/-- READ_CONTROL (R111). `rp_wdata` is ignored (R85). The result stands on the port as `rp_rdata`. -/
def execReadControl (index : BitVec 5) (_wdata : Word) (s : State) :
    Host.Outcome State Fault Refusal :=
  andThen (readControl index s) fun (_, s') => .next s'

/-- WRITE_BUFFER (R112). -/
def execWriteBuffer (index : BitVec 5) (value : Word) (s : State) :
    Host.Outcome State Fault Refusal :=
  .next (writeBuffer index value s)

/-- READ_BUFFER (R113). `rp_wdata` is ignored (R85). The result stands on the port as `rp_rdata`. -/
def execReadBuffer (index : BitVec 5) (_wdata : Word) (s : State) :
    Host.Outcome State Fault Refusal :=
  .next (readBuffer index s)

end Sys2Proof.Machine
end

