-- ==== Sys2Proof/Machine/Dispatch.lean ====
section
/-! DEFINITION. One arm per operation (R2), each a direct call of its meaning. -/

namespace Sys2Proof.Machine

def exec (i : Instr) (s : State) : Host.Outcome State Fault Refusal :=
  match i with
  | .tick reqValue => Sys2Proof.Machine.execTick reqValue s
  | .transact value => Sys2Proof.Machine.execTransact value s
  | .jbReset => Sys2Proof.Machine.execJbReset s
  | .jbPing => Sys2Proof.Machine.execJbPing s
  | .jbRead => Sys2Proof.Machine.execJbRead s
  | .jbWrite value => Sys2Proof.Machine.execJbWrite value s
  | .encode channel inputLen outputLen => Sys2Proof.Machine.execEncode channel inputLen outputLen s
  | .execute => Sys2Proof.Machine.execExecute s
  | .swap32 x => Sys2Proof.Machine.execSwap32 x s
  | .swap16h x => Sys2Proof.Machine.execSwap16h x s
  | .writeControl index value => Sys2Proof.Machine.execWriteControl index value s
  | .readControl index wdata => Sys2Proof.Machine.execReadControl index wdata s
  | .writeBuffer index value => Sys2Proof.Machine.execWriteBuffer index value s
  | .readBuffer index wdata => Sys2Proof.Machine.execReadBuffer index wdata s

end Sys2Proof.Machine
end

