-- ==== Sys2Proof/Machine/Fetch.lean ====
section
/-! DEFINITION. Which operation the next step runs. The block has no instruction memory (R2): in IDLE the host's
request port gives the operation (R93, R170), in every other phase the command in progress does (R147),
and the model admits an operation presented from outside (assumption 10). -/

namespace Sys2Proof.Machine

/-- The operation of the next step and the state it runs on: its ports cleared, and what presented the
operation used up. None in IDLE with no request. A configuration that is not well formed is refused
(R9, U14). -/
def fetch (s : State) : Except Refusal (Option (Instr × State)) :=
  if s.cfg.wellFormed then
    match s.presented with
    | some p =>
        match decode s.cfg p with
        | .ok i => .ok (some (i, { s.clearPorts with presented := none }))
        | .error e => .error (.undecodable e)
    | none =>
        match s.ph with
        | .idle =>
            match s.reqs with
            | [] => .ok none
            | w :: rest => .ok (some (decodeHostReq w, { s.clearPorts with reqs := rest }))
        | .clr | .fill0 | .fill1 | .errclr | .enc | .poll1 | .arm | .poll2 | .resp =>
            .ok (some (s.cmdR.instr s.valR, s.clearPorts))
  else .error .cfgNotWellFormed

/-- The packet stored where the next step takes its operation from: a host request on the request port of
an idle block, anything else as the presented operation. -/
def State.place (s : State) (p : Packet) : State :=
  match p with
  | .hostReq w => { s with reqs := w :: s.reqs, ph := .idle, presented := none, rst := false }
  | .regPort _ | .controlWord _ | .frame _ | .execute | .swap32 _ | .swap16h _ =>
      { s with presented := some p, rst := false }

/-- The packet of a table word, a word that fits no format standing as a frame of no bytes, which the
decoder refuses. -/
def tablePacketD (nbits w : Nat) : Packet := (tablePacket nbits w).getD (.frame [])

end Sys2Proof.Machine
end

