-- ==== Sys2Proof/Machine/Step.lean ====
section
/-! DEFINITION. One step of the machine (R11, R220). -/

namespace Sys2Proof.Machine

/-- One step: a clock edge with `rst` = 1 resets (R220). Else the operation of the next step runs; in IDLE with
no request nothing changes but that the output ports are no longer valid (R170). -/
def step (s : State) : Host.Outcome State Fault Refusal :=
  if s.rst then .next s.applyReset
  else
    match fetch s with
    | .error r => .refused r
    | .ok none => .next s.clearPorts
    | .ok (some (i, s')) => exec i s'

/-- The state with the table's word placed so that the next step runs its operation (assumptions 10 and 17). -/
def State.withFetchWord (s : State) (nbits w : Nat) : State := s.place (tablePacketD nbits w)

end Sys2Proof.Machine
end

