-- ==== Sys2Proof/Safety.lean ====
section
/-! DEFINITION. The terms in which claims speak of a run: what a stored word is, what stays, the phase graph of
R22, error responses, and the invariant of the machine. -/

namespace Sys2Proof.Machine

/-! ### Bytes of a window -/

/-- Every byte of the window reads as before. -/
def SameBytes (m m' : Memory) : Prop := ∀ a, Memory.read m' a = Memory.read m a

/-- Word `i` of the window has received `v`, lane by lane, and every other byte reads as before (R51, R60). -/
def StoredWord (o : LaneOrder) (m m' : Memory) (i : Nat) (v : Word) : Prop :=
  (∀ j < 4, Memory.read m' (4 * i + j) = some (laneByte o v j)) ∧
  ∀ a, a < 4 * i ∨ 4 * i + 4 ≤ a → Memory.read m' a = Memory.read m a

/-- Every byte listed lies below an address. -/
def Memory.below (m : Memory) (bound : Nat) : Prop := ∀ c ∈ m, c.1 < bound

/-! ### The poll loop -/

/-- The next read of the controller shows the busy bit as 1 (R35, R141). -/
def State.seesBusy (s : State) : Prop := s.nextAnswer.getLsbD s.cfg.pollBit.val = true

/-- A busy read in this state is the `n_max`-th of its loop (R145). -/
def State.lastPoll (s : State) : Prop := s.cfg.pollLimit = some (s.n + 1)

/-- `n` after a read that shows the busy bit as 1 (R141, R143): it exists only with POLL_LIMIT set. -/
def State.countedBusy (s : State) : Nat := if s.cfg.pollLimit = none then s.n else s.n + 1

/-- The reads of the loop after one more read (R30): the count exists only with POLL_LIMIT set. -/
def State.countedReads (s : State) : Nat := if s.cfg.pollLimit = none then s.loopReads else s.loopReads + 1

/-- `n` at the entry of a poll loop (R142, R145, R156). -/
def State.freshCount (s : State) : Nat := if s.cfg.pollLimit = none then s.n else 0

/-- The reads of the loop at its entry (R30). -/
def State.freshReads (s : State) : Nat := if s.cfg.pollLimit = none then s.loopReads else 0

/-! ### The phase graph -/

/-- The request on the request port is a TICK, or a TRANSACT while Connected: one that starts a command (R22). -/
def State.startsCommand (s : State) : Prop :=
  ∃ w rest, s.reqs = w :: rest ∧ (w.getLsbD 32 = false ∨ s.conn = .connected)

/-- The rows of R22: `ph` moves from the phase of `s` to `p`, on the condition the row gives. -/
inductive PhaseEdge (s : State) : Phase → Prop where
  | idleClr : s.ph = .idle → s.startsCommand → PhaseEdge s .clr
  | idleIdle : s.ph = .idle → ¬ s.startsCommand → PhaseEdge s .idle
  | clrClr : s.ph = .clr → s.k.toNat + 1 ≠ s.cmdR.nClr s.cfg → PhaseEdge s .clr
  | clrFill0 : s.ph = .clr → s.k.toNat + 1 = s.cmdR.nClr s.cfg → PhaseEdge s .fill0
  | fill0Fill1 : s.ph = .fill0 → s.cmdR = .write → PhaseEdge s .fill1
  | fill0Enc : s.ph = .fill0 → s.cmdR = .reset ∨ s.cmdR = .ping → PhaseEdge s .enc
  | fill0Errclr : s.ph = .fill0 → s.cmdR = .read → PhaseEdge s .errclr
  | fill1Errclr : s.ph = .fill1 → PhaseEdge s .errclr
  | errclrEnc : s.ph = .errclr → PhaseEdge s .enc
  | encPoll1 : s.ph = .enc → PhaseEdge s .poll1
  | poll1Poll1 : s.ph = .poll1 → s.seesBusy → ¬ s.lastPoll → PhaseEdge s .poll1
  | poll1Arm : s.ph = .poll1 → ¬ s.seesBusy → PhaseEdge s .arm
  | armPoll2 : s.ph = .arm → PhaseEdge s .poll2
  | poll2Poll2 : s.ph = .poll2 → s.seesBusy → ¬ s.lastPoll → PhaseEdge s .poll2
  | poll2Resp : s.ph = .poll2 → ¬ s.seesBusy → s.cmdR ≠ .write → PhaseEdge s .resp
  | poll2Clr : s.ph = .poll2 → ¬ s.seesBusy → s.cmdR = .write → PhaseEdge s .clr
  | respIdle : s.ph = .resp → PhaseEdge s .idle
  | timeout : s.ph = .poll1 ∨ s.ph = .poll2 → s.seesBusy → s.lastPoll → PhaseEdge s .idle

/-! ### Runs -/

/-- The step is the machine's own: no reset edge, and no operation presented from outside (assumption 10). -/
def State.ownStep (s : State) : Prop := s.rst = false ∧ s.presented = none

/-- The last step ended a host operation with an error response (R199). -/
def State.errored (s : State) : Prop := ∃ r, s.rsp = some r ∧ r.err ≠ .ok

/-- The outcome of a run that has come to a state: the first fault on its record, if there is one (R176, U1). -/
def State.outcome (s : State) : Host.Outcome State Fault Refusal :=
  match s.faults with
  | [] => .next s
  | f :: _ => .fault f

/-- The outcome of a run of `k` steps (R176): a TRANSACT accepted while Disconnected, or a poll loop come to its
bound, makes it a fault, although the block itself goes on (R192, R200, program P4 of 95_test_vectors.md). A claim
about a program is a claim about this outcome: it shows that none occurs, or accepts the fault. -/
def runOutcome (k : Nat) (s : State) : Host.Outcome State Fault Refusal :=
  match core.run k s with
  | .next t => State.outcome t
  | .fault r => .fault r
  | .refused r => .refused r

/-! ### The invariant -/

/-- The operation in service agrees with the command in progress (R22, R170): a TICK runs the command of the
connection state it was accepted in, and a TRANSACT runs JB_WRITE and JB_READ while Connected. -/
def State.opMatches (s : State) : Prop :=
  match s.opR with
  | .tick => s.cmdR = tickCommand s.conn
  | .transact => s.conn = .connected ∧ (s.cmdR = .write ∨ s.cmdR = .read)

/-- What every state of the machine's own runs satisfies. -/
structure State.Inv (s : State) : Prop where
  /-- CFG is well formed (R9) -/
  cfg : s.cfg.wellFormed = true
  /-- no operation is presented from outside -/
  notPresented : s.presented = none
  /-- the windows are in canonical form -/
  ctrlWf : Memory.wf s.ctrl = true
  bufWf : Memory.wf s.buf = true
  /-- no write has left a window (R53) -/
  ctrlBelow : s.ctrl.below (4 * s.cfg.nctrl)
  bufBelow : s.buf.below 128
  /-- a busy block serves the command of its operation -/
  op : s.ph ≠ .idle → s.opMatches
  /-- `k` is an index of the words to clear (R25, R152) -/
  clr : s.ph = .clr → s.k.toNat < s.cmdR.nClr s.cfg
  /-- only JB_WRITE reaches FILL1 (R22) -/
  fill1 : s.ph = .fill1 → s.cmdR = .write
  /-- only JB_READ and JB_WRITE reach ERRCLR (R22) -/
  errclr : s.ph = .errclr → s.cmdR = .read ∨ s.cmdR = .write
  /-- JB_WRITE never reaches RESP (R22, R143) -/
  resp : s.ph = .resp → s.cmdR ≠ .write
  /-- `cw_r` holds the control word of the command from ENC to the end of the transfer (R26, R136) -/
  cw : s.ph = .poll1 ∨ s.ph = .arm ∨ s.ph = .poll2 → s.cwR = commandWord s.cfg s.cmdR
  /-- the read count of a poll loop stays below the bound (R145) -/
  count : s.ph = .poll1 ∨ s.ph = .poll2 → ∀ m ∈ s.cfg.pollLimit, s.n < m
  /-- while a poll loop goes on, `n` is the count of its reads (R30, R141): every read so far was busy -/
  reads : s.ph = .poll1 ∨ s.ph = .poll2 → s.cfg.pollLimit ≠ none → s.loopReads = s.n

end Sys2Proof.Machine
end

