-- ==== Sys2Proof/Certificates/Slice0/Obligations.lean ====
section
/-! DEFINITION. The statements for the provers, in the order of the spec's files. A frame is written by putting the
written fields back: `{ t with f := s.f } = s` says that every field but `f` is as it was. -/

open Sys2Proof Sys2Proof.Machine

/-! ### Register Interface (40_register_interface.md) -/

/-- R110. WRITE_CONTROL with an index in the window completes: `CTRL[index]` receives `value`, whole word; the
access stands on the register port as REGPORT 0, 1, index, value; nothing else changes. -/
def Obligations.WriteControlStoresWholeWord : Prop :=
  ∀ (s : State) (index : BitVec 5) (value : Word), index.toNat < s.cfg.nctrl →
    ∃ t, exec (.writeControl index value) s = .next t ∧
      StoredWord ctrlLanes s.ctrl t.ctrl index.toNat value ∧
      t.ctrlWord index.toNat = some value ∧
      SameBytes s.buf t.buf ∧
      (∃ a, t.rp = some a ∧ a.word = (0#1 ++ 1#1 ++ index ++ value : BitVec 39)) ∧
      { t with ctrl := s.ctrl, rp := s.rp } = s

/-- R111, R38. READ_CONTROL with an index in the window completes: the word that comes back is what the
controller presents now (the next of the answers in the state, or a free value: assumption 4), the ignored
`rp_wdata` plays no part, and no byte and no register of the block changes. -/
def Obligations.ReadControlTakesControllerWord : Prop :=
  ∀ (s : State) (index : BitVec 5) (wdata : Word), index.toNat < s.cfg.nctrl →
    ∃ t, exec (.readControl index wdata) s = .next t ∧
      (∀ r more, s.answers = r :: more →
        t.rp = some (.readControl index r) ∧ t.answers = more) ∧
      (s.answers = [] →
        t.rp = some (.readControl index (Config.draw s.draws)) ∧ t.answers = []) ∧
      SameBytes s.ctrl t.ctrl ∧ SameBytes s.buf t.buf ∧
      { t with rp := s.rp, answers := s.answers, draws := s.draws } = s

/-- R112. WRITE_BUFFER completes for every index: `BUF[index]` receives `value`, whole word, byte `4 * index + j`
of the frame being lane `j`; the access stands on the register port as REGPORT 1, 1, index, value; nothing
else changes. -/
def Obligations.WriteBufferStoresWholeWord : Prop :=
  ∀ (s : State) (index : BitVec 5) (value : Word),
    ∃ t, exec (.writeBuffer index value) s = .next t ∧
      StoredWord s.cfg.laneOrder s.buf t.buf index.toNat value ∧
      t.bufWord index.toNat = some value ∧
      SameBytes s.ctrl t.ctrl ∧
      (∃ a, t.rp = some a ∧ a.word = (1#1 ++ 1#1 ++ index ++ value : BitVec 39)) ∧
      { t with buf := s.buf, rp := s.rp } = s

/-- R113, R38. READ_BUFFER completes for every index: the word that comes back is what the controller presents
now (assumption 4), whatever the block wrote there, and no byte and no register of the block changes. -/
def Obligations.ReadBufferTakesControllerWord : Prop :=
  ∀ (s : State) (index : BitVec 5) (wdata : Word),
    ∃ t, exec (.readBuffer index wdata) s = .next t ∧
      (∀ r more, s.answers = r :: more →
        t.rp = some (.readBuffer index r) ∧ t.answers = more) ∧
      (s.answers = [] →
        t.rp = some (.readBuffer index (Config.draw s.draws)) ∧ t.answers = []) ∧
      SameBytes s.ctrl t.ctrl ∧ SameBytes s.buf t.buf ∧
      { t with rp := s.rp, answers := s.answers, draws := s.draws } = s

/-- R114, U4. A control register access whose index is not below NCTRL is refused by name, written or read. -/
def Obligations.ControlIndexOutsideWindowRefused : Prop :=
  ∀ (s : State) (index : BitVec 5) (value : Word), s.cfg.nctrl ≤ index.toNat →
    exec (.writeControl index value) s = .refused .indexOutsideWindow ∧
    exec (.readControl index value) s = .refused .indexOutsideWindow

/-! ### Byte-Order Converter (41_byte_order.md) -/

/-- R120. SWAP32 completes in every state: its result, held in the model's own `convOut` (assumption 11), is the
operand with its bytes reversed; nothing else changes. -/
def Obligations.Swap32ReversesBytes : Prop :=
  ∀ (s : State) (x : Word),
    ∃ t, exec (.swap32 x) s = .next t ∧
      (∀ j < 4, t.convOut.extractLsb' (8 * j) 8 = x.extractLsb' (24 - 8 * j) 8) ∧
      SameBytes s.ctrl t.ctrl ∧ SameBytes s.buf t.buf ∧
      { t with convOut := s.convOut } = s

/-- R121. SWAP16H completes in every state: its result, held in `convOut` (assumption 11), is the operand with
its halves exchanged and the bytes inside each half in place; nothing else changes. -/
def Obligations.Swap16hExchangesHalves : Prop :=
  ∀ (s : State) (x : Word),
    ∃ t, exec (.swap16h x) s = .next t ∧
      (∀ j < 2, t.convOut.extractLsb' (16 * j) 16 = x.extractLsb' (16 - 16 * j) 16) ∧
      SameBytes s.ctrl t.ctrl ∧ SameBytes s.buf t.buf ∧
      { t with convOut := s.convOut } = s

/-- R120, R121, R122. The two swap functions, each in both of its rule's forms, and their laws: each is its own
inverse and a bijection; the two commute, and their composition is the byte swap inside each half. -/
def Obligations.SwapFunctionsAndTheirLaws : Prop :=
  (∀ x : Word,
    swap32 x =
      (x.extractLsb' 0 8 ++ x.extractLsb' 8 8 ++ x.extractLsb' 16 8 ++ x.extractLsb' 24 8 : BitVec 32) ∧
    swap32 x = ((x &&& 0x000000FF) <<< 24) ||| ((x &&& 0x0000FF00) <<< 8) |||
      ((x >>> 8) &&& 0x0000FF00) ||| ((x >>> 24) &&& 0x000000FF) ∧
    swap16Halves x = (x.extractLsb' 0 16 ++ x.extractLsb' 16 16 : BitVec 32) ∧
    swap16Halves x = ((x &&& 0x0000FFFF) <<< 16) ||| (x >>> 16) ∧
    swap32 (swap32 x) = x ∧ swap16Halves (swap16Halves x) = x ∧
    swap32 (swap16Halves x) = swap16Halves (swap32 x) ∧
    swap32 (swap16Halves x) =
      (x.extractLsb' 16 8 ++ x.extractLsb' 24 8 ++ x.extractLsb' 0 8 ++ x.extractLsb' 8 8 : BitVec 32)) ∧
  Function.Bijective swap32 ∧ Function.Bijective swap16Halves

/-! ### Transfer Descriptor Encoder (42_descriptor_encoder.md) -/

/-- R131, R132. ENCODE completes under a well-formed CFG on every operand: in one step `CTRL[STATUS_INDEX]`
receives STATUS_CLEAR_VALUE and `cw_r` the control word (latching it is R156's; assumption 12); nothing
else changes. -/
def Obligations.EncodeLatchesWordAndClearsStatus : Prop :=
  ∀ (s : State) (channel inputLen outputLen : Word), s.cfg.wellFormed = true →
    ∃ t, exec (.encode channel inputLen outputLen) s = .next t ∧
      t.cwR = encodeWord s.cfg channel inputLen outputLen ∧
      StoredWord ctrlLanes s.ctrl t.ctrl s.cfg.statusIndex.toNat s.cfg.statusClearValue ∧
      t.rp = some (.writeControl s.cfg.statusIndex s.cfg.statusClearValue) ∧
      SameBytes s.buf t.buf ∧
      { t with ctrl := s.ctrl, rp := s.rp, cwR := s.cwR } = s

/-- R135, R33. Under a well-formed CFG every field of the control word reads back as its masked operand, both
channel fields the same, the three flags are 1, and every bit outside the seven fields is 0. -/
def Obligations.ControlWordFieldLayout : Prop :=
  ∀ (c : Cfg) (channel inputLen outputLen : Word), c.wellFormed = true →
    let w := encodeWord c channel inputLen outputLen
    w.extractLsb' c.posChsel 2 = channel.extractLsb' 0 2 ∧
    w.extractLsb' c.posChdup 2 = channel.extractLsb' 0 2 ∧
    w.extractLsb' c.posOutlen 7 = outputLen.extractLsb' 0 7 ∧
    w.extractLsb' c.posInlen 7 = inputLen.extractLsb' 0 7 ∧
    w.getLsbD c.posChen = true ∧ w.getLsbD c.posCmden = true ∧ w.getLsbD c.posStart = true ∧
    ∀ b < 32, (∀ f ∈ c.fields, b < f.1 ∨ f.1 + f.2 ≤ b) → w.getLsbD b = false

/-- R9, last but one sentence; R130. Under a well-formed CFG no two terms of the control word meet and none is
shifted out: the word is the arithmetic sum of the shifted fields. -/
def Obligations.ControlWordOrIsSum : Prop :=
  ∀ (c : Cfg) (channel inputLen outputLen : Word), c.wellFormed = true →
    (encodeWord c channel inputLen outputLen).toNat =
      (channel.toNat % 4) * 2 ^ c.posChsel + 2 ^ c.posChen + (outputLen.toNat % 128) * 2 ^ c.posOutlen +
      (inputLen.toNat % 128) * 2 ^ c.posInlen + 2 ^ c.posCmden + (channel.toNat % 4) * 2 ^ c.posChdup +
      2 ^ c.posStart

/-- R133. The masking law, under every CFG, for the word and for the whole operation; and the source's own
instance. -/
def Obligations.EncodeMasksOperands : Prop :=
  (∀ (c : Cfg) (channel inputLen outputLen : Word),
    encodeWord c channel inputLen outputLen =
      encodeWord c (channel &&& 3) (inputLen &&& 0x7F) (outputLen &&& 0x7F)) ∧
  (∀ (s : State) (channel inputLen outputLen : Word),
    exec (.encode channel inputLen outputLen) s =
      exec (.encode (channel &&& 3) (inputLen &&& 0x7F) (outputLen &&& 0x7F)) s) ∧
  ∀ c : Cfg, encodeWord c 7 200 200 = encodeWord c 3 72 72

/-- R136. The control words of the four commands under CFG_REF (whose values are PRESUMED, assumption 2). -/
def Obligations.CommandControlWordsUnderRef : Prop :=
  commandWord Cfg.ref .reset = 0x03010383 ∧ commandWord Cfg.ref .ping = 0x03010383 ∧
  commandWord Cfg.ref .read = 0x03010483 ∧ commandWord Cfg.ref .write = 0x03050183

/-! ### Synchronous Transfer Executor (43_executor.md) -/

/-- R141, R30. EXECUTE in POLL1 completes under a well-formed CFG: one read of `CTRL[POLL_INDEX]`, of which only
POLL_BIT counts. Clear: to ARM, `n` as before. Set: POLL1 stays, and with POLL_LIMIT set `n` is incremented and the
`n_max`-th read raises BusTimeout (R193: the error response, IDLE, nothing written; put on the model's record,
assumption 8). With POLL_LIMIT set R30's count of the reads of the loop, which the model holds beside `n`
(assumption 25), is incremented either way; without it neither is touched. Nothing else changes. -/
def Obligations.PollBeforeArmStep : Prop :=
  ∀ s : State, s.cfg.wellFormed = true → s.ph = .poll1 →
    ∃ t, exec .execute s = .next t ∧
      t.rp = some (.readControl s.cfg.pollIndex s.nextAnswer) ∧
      (s.nextAnswer.getLsbD s.cfg.pollBit.val = false →
        t.ph = .arm ∧ t.n = s.n ∧ t.rsp = s.rsp ∧ t.faults = s.faults) ∧
      (s.nextAnswer.getLsbD s.cfg.pollBit.val = true → s.cfg.pollLimit = none →
        t.ph = .poll1 ∧ t.n = s.n ∧ t.rsp = s.rsp ∧ t.faults = s.faults) ∧
      (∀ m, s.nextAnswer.getLsbD s.cfg.pollBit.val = true → s.cfg.pollLimit = some m →
        t.n = s.n + 1 ∧ (s.n + 1 ≠ m → t.ph = .poll1 ∧ t.rsp = s.rsp ∧ t.faults = s.faults) ∧
        (s.n + 1 = m → t.ph = .idle ∧ t.rsp = some ⟨.busTimeout, .noEvent, 0⟩ ∧
          t.faults = s.faults ++ [.busTimeout])) ∧
      (s.cfg.pollLimit ≠ none → t.loopReads = s.loopReads + 1) ∧
      (s.cfg.pollLimit = none → t.loopReads = s.loopReads) ∧
      SameBytes s.ctrl t.ctrl ∧ SameBytes s.buf t.buf ∧
      { t with
          rp := s.rp, answers := s.answers, draws := s.draws, ph := s.ph, n := s.n,
          loopReads := s.loopReads, rsp := s.rsp, faults := s.faults } = s

/-- R142, R30. EXECUTE in ARM completes under a well-formed CFG: `CTRL[CW_INDEX]` receives `cw_r`, the counts of the
loop start at 0 where they exist, and the phase becomes POLL2; nothing else changes. -/
def Obligations.ArmStepWritesControlWord : Prop :=
  ∀ s : State, s.cfg.wellFormed = true → s.ph = .arm →
    ∃ t, exec .execute s = .next t ∧ t.ph = .poll2 ∧
      StoredWord ctrlLanes s.ctrl t.ctrl s.cfg.cwIndex.toNat s.cwR ∧
      t.rp = some (.writeControl s.cfg.cwIndex s.cwR) ∧
      (s.cfg.pollLimit ≠ none → t.n = 0 ∧ t.loopReads = 0) ∧
      (s.cfg.pollLimit = none → t.n = s.n ∧ t.loopReads = s.loopReads) ∧
      SameBytes s.buf t.buf ∧
      { t with ctrl := s.ctrl, rp := s.rp, n := s.n, loopReads := s.loopReads, ph := s.ph } = s

/-- R143, R30. EXECUTE in POLL2 completes under a well-formed CFG: one read of `CTRL[POLL_INDEX]`, of which only
POLL_BIT counts. Clear: JB_WRITE hands over to JB_READ, any other command goes to RESP, and `n` is as before. Set,
and the count of the reads: as in POLL1. Nothing else changes. -/
def Obligations.PollAfterArmStep : Prop :=
  ∀ s : State, s.cfg.wellFormed = true → s.ph = .poll2 →
    ∃ t, exec .execute s = .next t ∧
      t.rp = some (.readControl s.cfg.pollIndex s.nextAnswer) ∧
      (s.nextAnswer.getLsbD s.cfg.pollBit.val = false →
        t.n = s.n ∧ t.rsp = s.rsp ∧ t.faults = s.faults ∧
        (s.cmdR = .write → t.cmdR = .read ∧ t.k = 0 ∧ t.ph = .clr) ∧
        (s.cmdR ≠ .write → t.cmdR = s.cmdR ∧ t.k = s.k ∧ t.ph = .resp)) ∧
      (s.nextAnswer.getLsbD s.cfg.pollBit.val = true → t.cmdR = s.cmdR ∧ t.k = s.k) ∧
      (s.nextAnswer.getLsbD s.cfg.pollBit.val = true → s.cfg.pollLimit = none →
        t.ph = .poll2 ∧ t.n = s.n ∧ t.rsp = s.rsp ∧ t.faults = s.faults) ∧
      (∀ m, s.nextAnswer.getLsbD s.cfg.pollBit.val = true → s.cfg.pollLimit = some m →
        t.n = s.n + 1 ∧ (s.n + 1 ≠ m → t.ph = .poll2 ∧ t.rsp = s.rsp ∧ t.faults = s.faults) ∧
        (s.n + 1 = m → t.ph = .idle ∧ t.rsp = some ⟨.busTimeout, .noEvent, 0⟩ ∧
          t.faults = s.faults ++ [.busTimeout])) ∧
      (s.cfg.pollLimit ≠ none → t.loopReads = s.loopReads + 1) ∧
      (s.cfg.pollLimit = none → t.loopReads = s.loopReads) ∧
      SameBytes s.ctrl t.ctrl ∧ SameBytes s.buf t.buf ∧
      { t with
          rp := s.rp, answers := s.answers, draws := s.draws, ph := s.ph, n := s.n,
          loopReads := s.loopReads, rsp := s.rsp, cmdR := s.cmdR, k := s.k, faults := s.faults } = s

/-- R140. EXECUTE outside its three phases begins with its first POLL1 read, the count at its start: the model's
reading of an invocation that the sequencer never makes (DESIGN CHOICE, assumption 10). -/
def Obligations.ExecuteBeginsWithPoll : Prop :=
  ∀ s : State, s.cfg.wellFormed = true → s.ph ≠ .poll1 → s.ph ≠ .arm → s.ph ≠ .poll2 →
    ∃ t, exec .execute s = .next t ∧
      exec .execute { s with ph := .poll1, n := s.freshCount, loopReads := s.freshReads } = .next t ∧
      t.rp = some (.readControl s.cfg.pollIndex s.nextAnswer) ∧
      (s.nextAnswer.getLsbD s.cfg.pollBit.val = false → t.ph = .arm) ∧
      SameBytes s.ctrl t.ctrl ∧ SameBytes s.buf t.buf

/-- R144. With POLL_LIMIT = none a controller that goes on showing the busy bit as 1 keeps the block in its poll
phase for any number of steps: every step reads again, no response is produced and no request accepted. -/
def Obligations.UnboundedPollNeverLeaves : Prop :=
  ∀ (s : State) (bs more : List Word), s.ownStep → s.cfg.wellFormed = true →
    s.cfg.pollLimit = none → (s.ph = .poll1 ∨ s.ph = .poll2) →
    s.answers = bs ++ more → bs ≠ [] → (∀ r ∈ bs, r.getLsbD s.cfg.pollBit.val = true) →
    ∃ t, core.run bs.length s = .next t ∧ t.ph = s.ph ∧ t.rsp = none ∧ t.reqs = s.reqs ∧
      t.reqReady = false ∧ t.answers = more ∧ t.conn = s.conn ∧
      SameBytes s.ctrl t.ctrl ∧ SameBytes s.buf t.buf

/-- R145, R193. With POLL_LIMIT = some m a loop entered with the count 0 makes `m` reads, and if all of them show
the busy bit as 1 the `m`-th raises BusTimeout: the error response, IDLE, `conn` unchanged, nothing written.
If a read before that shows it as 0, the loop ends normally. -/
def Obligations.BoundedPollTimesOut : Prop :=
  ∀ (s : State) (m : Nat) (bs : List Word) (r : Word) (more : List Word),
    s.ownStep → s.cfg.wellFormed = true →
    s.cfg.pollLimit = some m → (s.ph = .poll1 ∨ s.ph = .poll2) → s.n = 0 →
    s.answers = bs ++ r :: more → bs.length < m →
    (∀ b ∈ bs, b.getLsbD s.cfg.pollBit.val = true) →
    ∃ t, core.run (bs.length + 1) s = .next t ∧ t.conn = s.conn ∧
      SameBytes s.ctrl t.ctrl ∧ SameBytes s.buf t.buf ∧ t.answers = more ∧
      (r.getLsbD s.cfg.pollBit.val = true → bs.length + 1 = m →
        t.ph = .idle ∧ t.rsp = some ⟨.busTimeout, .noEvent, 0⟩) ∧
      (r.getLsbD s.cfg.pollBit.val = true → bs.length + 1 ≠ m →
        t.ph = s.ph ∧ t.rsp = none ∧ t.n = bs.length + 1) ∧
      (r.getLsbD s.cfg.pollBit.val = false →
        t.rsp = none ∧ (s.ph = .poll1 → t.ph = .arm) ∧
        (s.ph = .poll2 → t.ph = if s.cmdR = .write then .clr else .resp))

/-! ### JOYBUS Command Set (44_joybus_commands.md) -/

/-- R152. JB_RESET, JB_PING, JB_READ, JB_WRITE in CLR: `BUF[k]` receives zero; after the last of the command's
`N_clr` words the phase becomes FILL0 and `k` stays, else `k` advances and CLR stays; nothing else changes. -/
def Obligations.ClearStepZeroesOneWord : Prop :=
  ∀ s : State, s.ph = .clr →
    ∃ t, exec (s.cmdR.instr s.valR) s = .next t ∧
      StoredWord s.cfg.laneOrder s.buf t.buf s.k.toNat 0 ∧
      t.rp = some (.writeBuffer s.k 0) ∧
      (s.k.toNat + 1 = s.cmdR.nClr s.cfg → t.ph = .fill0 ∧ t.k = s.k) ∧
      (s.k.toNat + 1 ≠ s.cmdR.nClr s.cfg → t.ph = .clr ∧ t.k = s.k + 1) ∧
      SameBytes s.ctrl t.ctrl ∧
      { t with buf := s.buf, rp := s.rp, ph := s.ph, k := s.k } = s

/-- R153. The four commands in FILL0: `BUF[0]` receives `W0`, and the phase becomes FILL1 for JB_WRITE, ERRCLR
for JB_READ, ENC for JB_RESET and JB_PING; nothing else changes. -/
def Obligations.Fill0StepWritesFirstWord : Prop :=
  ∀ s : State, s.ph = .fill0 →
    ∃ t, exec (s.cmdR.instr s.valR) s = .next t ∧
      StoredWord s.cfg.laneOrder s.buf t.buf 0 (word0 s.cfg s.cmdR s.valR) ∧
      t.rp = some (.writeBuffer 0 (word0 s.cfg s.cmdR s.valR)) ∧
      (s.cmdR = .write → t.ph = .fill1) ∧ (s.cmdR = .read → t.ph = .errclr) ∧
      (s.cmdR = .reset ∨ s.cmdR = .ping → t.ph = .enc) ∧
      SameBytes s.ctrl t.ctrl ∧
      { t with buf := s.buf, rp := s.rp, ph := s.ph } = s

/-- R154. JB_WRITE in FILL1: `BUF[1]` receives `W1`, and the phase becomes ERRCLR; nothing else changes. -/
def Obligations.Fill1StepWritesSecondWord : Prop :=
  ∀ s : State, s.ph = .fill1 → s.cmdR = .write →
    ∃ t, exec (.jbWrite s.valR) s = .next t ∧ t.ph = .errclr ∧
      StoredWord s.cfg.laneOrder s.buf t.buf 1 (word1 s.cfg s.valR) ∧
      t.rp = some (.writeBuffer 1 (word1 s.cfg s.valR)) ∧
      SameBytes s.ctrl t.ctrl ∧
      { t with buf := s.buf, rp := s.rp, ph := s.ph } = s

/-- R155. JB_READ and JB_WRITE in ERRCLR: `CTRL[ERRCLR_INDEX]` receives ERRCLR_VALUE, the same constant for both
commands, with no read before it, and the phase becomes ENC; nothing else changes. -/
def Obligations.ErrclrStepWritesPattern : Prop :=
  ∀ s : State, s.cfg.wellFormed = true → s.ph = .errclr → s.cmdR = .read ∨ s.cmdR = .write →
    ∃ t, exec (s.cmdR.instr s.valR) s = .next t ∧ t.ph = .enc ∧
      StoredWord ctrlLanes s.ctrl t.ctrl s.cfg.errclrIndex.toNat s.cfg.errclrValue ∧
      t.rp = some (.writeControl s.cfg.errclrIndex s.cfg.errclrValue) ∧
      SameBytes s.buf t.buf ∧
      { t with ctrl := s.ctrl, rp := s.rp, ph := s.ph } = s

/-- R156. The four commands in ENC: one evaluation of ENCODE on CHAN and the command's lengths, which is the
status clear and the latched control word; the counts of the loop start at 0 where they exist; the phase becomes
POLL1; nothing else changes. -/
def Obligations.EncStepEvaluatesEncode : Prop :=
  ∀ s : State, s.cfg.wellFormed = true → s.ph = .enc →
    ∃ t u, exec (s.cmdR.instr s.valR) s = .next t ∧
      exec (.encode (s.cfg.chan.setWidth 32) s.cmdR.inLen s.cmdR.outLen) s = .next u ∧
      t = { u with ph := .poll1, n := s.freshCount, loopReads := s.freshReads } ∧
      t.cwR = encodeWord s.cfg (s.cfg.chan.setWidth 32) s.cmdR.inLen s.cmdR.outLen ∧
      StoredWord ctrlLanes s.ctrl t.ctrl s.cfg.statusIndex.toNat s.cfg.statusClearValue ∧
      SameBytes s.buf t.buf ∧
      { t with
          ctrl := s.ctrl, rp := s.rp, cwR := s.cwR, n := s.n, loopReads := s.loopReads, ph := s.ph } = s

/-- R171. JB_RESET in RESP ends a tick from Disconnected: with the identity `0x0004` in the upper half of the
word read, `conn` becomes Connected and the response is OK, Attached, 0; with any other it stays
Disconnected and the response is OK, none, 0. -/
def Obligations.ResetResponseAttaches : Prop :=
  ∀ s : State, s.ph = .resp → s.cmdR = .reset → s.conn = .disconnected →
    ∃ t, exec .jbReset s = .next t ∧ t.ph = .idle ∧ t.rwR = s.nextAnswer ∧
      t.rp = some (.readBuffer 0 s.nextAnswer) ∧
      (s.nextAnswer.extractLsb' 16 16 = 0x0004#16 →
        t.conn = .connected ∧ t.connectedOut = true ∧ t.rsp = some ⟨.ok, .attached, 0⟩) ∧
      (s.nextAnswer.extractLsb' 16 16 ≠ 0x0004#16 →
        t.conn = .disconnected ∧ t.connectedOut = false ∧ t.rsp = some ⟨.ok, .noEvent, 0⟩) ∧
      SameBytes s.ctrl t.ctrl ∧ SameBytes s.buf t.buf ∧
      { t with
          rp := s.rp, answers := s.answers, draws := s.draws, rwR := s.rwR, ph := s.ph, conn := s.conn,
          rsp := s.rsp } = s

/-- R172. JB_PING in RESP ends a tick from Connected: with an identity other than `0x0004`, `conn` becomes
Disconnected and the response is OK, Detached, 0; with `0x0004` it stays Connected and the response is OK,
none, 0. -/
def Obligations.PingResponseDetaches : Prop :=
  ∀ s : State, s.ph = .resp → s.cmdR = .ping → s.conn = .connected →
    ∃ t, exec .jbPing s = .next t ∧ t.ph = .idle ∧ t.rwR = s.nextAnswer ∧
      t.rp = some (.readBuffer 0 s.nextAnswer) ∧
      (s.nextAnswer.extractLsb' 16 16 ≠ 0x0004#16 →
        t.conn = .disconnected ∧ t.connectedOut = false ∧ t.rsp = some ⟨.ok, .detached, 0⟩) ∧
      (s.nextAnswer.extractLsb' 16 16 = 0x0004#16 →
        t.conn = .connected ∧ t.connectedOut = true ∧ t.rsp = some ⟨.ok, .noEvent, 0⟩) ∧
      SameBytes s.ctrl t.ctrl ∧ SameBytes s.buf t.buf ∧
      { t with
          rp := s.rp, answers := s.answers, draws := s.draws, rwR := s.rwR, ph := s.ph, conn := s.conn,
          rsp := s.rsp } = s

/-- R58, R175. JB_READ in RESP ends a TRANSACT: the response is OK, none, and `swap32` of the whole word read, for
either lane order; `conn` is not changed (R177). -/
def Obligations.ReadResponseReturnsSwappedWord : Prop :=
  ∀ s : State, s.ph = .resp → s.cmdR = .read →
    ∃ t, exec .jbRead s = .next t ∧ t.ph = .idle ∧ t.rwR = s.nextAnswer ∧
      t.rp = some (.readBuffer 0 s.nextAnswer) ∧
      (∃ v, t.rsp = some ⟨.ok, .noEvent, v⟩ ∧
        ∀ j < 4, v.extractLsb' (8 * j) 8 = s.nextAnswer.extractLsb' (24 - 8 * j) 8) ∧
      SameBytes s.ctrl t.ctrl ∧ SameBytes s.buf t.buf ∧
      { t with
          rp := s.rp, answers := s.answers, draws := s.draws, rwR := s.rwR, ph := s.ph, rsp := s.rsp } = s

/-- R157, R143. JB_WRITE in RESP, a state that R143 never leads to and for which R157 has no arm, stops with a
fault of its own name (assumption 15). -/
def Obligations.RespAfterWriteFaults : Prop :=
  ∀ s : State, s.ph = .resp → s.cmdR = .write →
    exec (.jbWrite s.valR) s = .fault .respAfterWrite

/-- R151, R152. A command that is not in progress begins at its first phase: in IDLE each of the four zeroes
`BUF[0]` and goes on with `BUF[1]`, latched as the command in progress (DESIGN CHOICE, assumption 9). -/
def Obligations.CommandBeginsWithFirstClear : Prop :=
  ∀ (s : State) (c : Command) (v : Word), s.cfg.wellFormed = true → s.ph = .idle →
    ∃ t, exec (c.instr v) s = .next t ∧ t.ph = .clr ∧ t.cmdR = c ∧ t.k = 1 ∧
      (c = .write → t.valR = v) ∧ (c ≠ .write → t.valR = s.valR) ∧
      StoredWord s.cfg.laneOrder s.buf t.buf 0 0 ∧
      t.rp = some (.writeBuffer 0 0) ∧
      SameBytes s.ctrl t.ctrl ∧
      { t with buf := s.buf, rp := s.rp, ph := s.ph, cmdR := s.cmdR, k := s.k, valR := s.valR } = s

/-- R92. The command words of the four commands under both lane orders. -/
def Obligations.CommandWordTable : Prop :=
  ∀ (c : Cfg) (v : Word),
    (c.laneOrder = .msbFirst →
      word0 c .reset v = 0xFF#32 <<< 24 ∧ word0 c .ping v = 0x00#32 <<< 24 ∧
      word0 c .read v = 0x14#32 <<< 24 ∧
      word0 c .write v = (0x15#32 <<< 24) ||| (v >>> 8) ∧
      word0 c .write v = (0x15#8 ++ v.extractLsb' 8 24 : BitVec 32) ∧
      word1 c v = (v &&& 0xFF) <<< 24) ∧
    (c.laneOrder = .lsbFirst →
      word0 c .reset v = 0xFF#32 ∧ word0 c .ping v = 0x00#32 ∧ word0 c .read v = 0x14#32 ∧
      word0 c .write v = 0x15#32 ||| ((v.extractLsb' 24 8).setWidth 32 <<< 8) |||
        ((v.extractLsb' 16 8).setWidth 32 <<< 16) ||| ((v.extractLsb' 8 8).setWidth 32 <<< 24) ∧
      word1 c v = v &&& 0xFF)

/-- R57, R55. After JB_WRITE's two fill steps the frame in the Command Buffer is, in wire order and under either
lane order, `0x15` and the four bytes of the Link Value, most significant first; the other three lanes of
word 1 are zero (R56); every other wire byte is as it was. -/
def Obligations.WriteFrameOnTheWire : Prop :=
  ∀ s : State, s.ph = .fill0 → s.cmdR = .write →
    ∃ t u, exec (.jbWrite s.valR) s = .next t ∧ exec (.jbWrite s.valR) t = .next u ∧
      u.wireByte 0 = some 0x15 ∧
      u.wireByte 1 = some (s.valR.extractLsb' 24 8) ∧
      u.wireByte 2 = some (s.valR.extractLsb' 16 8) ∧
      u.wireByte 3 = some (s.valR.extractLsb' 8 8) ∧
      u.wireByte 4 = some (s.valR.extractLsb' 0 8) ∧
      u.wireByte 5 = some 0 ∧ u.wireByte 6 = some 0 ∧ u.wireByte 7 = some 0 ∧
      ∀ a, 8 ≤ a → u.wireByte a = s.wireByte a

/-- R152, R41. From the start of CLR the block zeroes the first `N_clr` words, and only those, in `N_clr` steps,
and reaches FILL0; no other register of the block changes but `k`. -/
def Obligations.ClearLoopZeroesBuffer : Prop :=
  ∀ s : State, s.ownStep → s.cfg.wellFormed = true → s.ph = .clr → s.k = 0 →
    ∃ t, core.run (s.cmdR.nClr s.cfg) s = .next t ∧ t.ph = .fill0 ∧
      t.k.toNat + 1 = s.cmdR.nClr s.cfg ∧
      (∀ a, a < 4 * s.cmdR.nClr s.cfg → t.wireByte a = some 0) ∧
      (∀ a, 4 * s.cmdR.nClr s.cfg ≤ a → t.wireByte a = s.wireByte a) ∧
      SameBytes s.ctrl t.ctrl ∧
      { t with buf := s.buf, rp := s.rp, rsp := s.rsp, ph := s.ph, k := s.k } = s

/-! ### Presence State Machine and host operations (45_presence_and_host.md) -/

/-- R170, R173. TICK in IDLE completes its acceptance: the command of the tick is chosen from `conn`, whatever
`req_value` is, and its clearing starts; no register port access is made and nothing else changes. -/
def Obligations.TickStartsIdentifyCommand : Prop :=
  ∀ (s : State) (v : Word), s.ph = .idle →
    (s.conn = .disconnected → exec (.tick v) s =
      .next { s with opR := .tick, cmdR := .reset, k := 0, ph := .clr }) ∧
    (s.conn = .connected → exec (.tick v) s =
      .next { s with opR := .tick, cmdR := .ping, k := 0, ph := .clr })

/-- R170, R175. TRANSACT in IDLE while Connected completes its acceptance: the Link Value is latched and JB_WRITE
begins; no register port access is made and nothing else changes. -/
def Obligations.TransactStartsWriteCommand : Prop :=
  ∀ (s : State) (v : Word), s.ph = .idle → s.conn = .connected →
    exec (.transact v) s =
      .next { s with opR := .transact, valR := v, cmdR := .write, k := 0, ph := .clr }

/-- R192, R176. TRANSACT in IDLE while Disconnected raises NotConnected: the error response with no event and no
value; no register port access, no other change of the block's state, IDLE as before. The response is a fault
outcome of the run, which the model puts on its own record (assumption 8): from a state of the machine's runs with
nothing on record, every run that begins with such a step has the outcome NotConnected; a run whose outcome is a
next state accepted every TRANSACT while Connected; and every step that ends in an error response puts exactly one
fault on the record. -/
def Obligations.TransactWhileDisconnectedRaises : Prop :=
  (∀ (s : State) (v : Word), s.ph = .idle → s.conn = .disconnected →
    exec (.transact v) s =
      .next { s with rsp := some ⟨.notConnected, .noEvent, 0⟩, faults := s.faults ++ [.notConnected] }) ∧
  (∀ (s : State) (w : HostReqWord) (rest : List HostReqWord), s.Inv → s.rst = false → s.ph = .idle →
    s.conn = .disconnected → s.reqs = w :: rest → w.getLsbD 32 = true → s.faults = [] →
    ∀ k, runOutcome (k + 1) s = .fault .notConnected) ∧
  (∀ (s t : State) (k : Nat), runOutcome k s = .next t →
    ∀ (j : Nat) (u : State) (w : HostReqWord) (rest : List HostReqWord), j < k → core.run j s = .next u →
      u.ownStep → u.ph = .idle → u.reqs = w :: rest → w.getLsbD 32 = true → u.conn = .connected) ∧
  ∀ s t : State, step s = .next t → t.errored → ∃ f, t.faults = s.faults ++ [f]

/-- R28. A request presented while the block is busy waits on the request port, TICK and TRANSACT alike, and an
own step of a busy block takes no request: `req_ready` is 1 exactly in IDLE. -/
def Obligations.RequestWaitsWhileBusy : Prop :=
  (∀ (s : State) (v : Word), s.ph ≠ .idle →
    exec (.tick v) s = .next { s with reqs := (0#1 ++ v : BitVec 33) :: s.reqs } ∧
    exec (.transact v) s = .next { s with reqs := (1#1 ++ v : BitVec 33) :: s.reqs }) ∧
  (∀ s t : State, s.ownStep → s.ph ≠ .idle → step s = .next t → t.reqs = s.reqs) ∧
  ∀ s : State, s.reqReady = true ↔ s.ph = .idle

/-- R170. The IDLE step. With no request nothing changes but that the output ports are no longer valid. A TICK
begins JB_RESET or JB_PING by `conn`; a TRANSACT begins JB_WRITE while Connected and raises NotConnected
else, which the model puts on its record (assumption 8). The accepted request leaves the port, and no access is
made. -/
def Obligations.IdleStepAcceptsOneRequest : Prop :=
  ∀ s : State, s.ownStep → s.cfg.wellFormed = true → s.ph = .idle →
    (s.reqs = [] → step s = .next { s with rp := none, rsp := none }) ∧
    (∀ w rest, s.reqs = w :: rest → w.getLsbD 32 = false → step s =
      .next { s with
        reqs := rest, rp := none, rsp := none, opR := .tick, k := 0, ph := .clr,
        cmdR := if s.conn = .disconnected then .reset else .ping }) ∧
    (∀ w rest, s.reqs = w :: rest → w.getLsbD 32 = true → s.conn = .connected → step s =
      .next { s with
        reqs := rest, rp := none, rsp := none, opR := .transact, valR := w.extractLsb' 0 32,
        cmdR := .write, k := 0, ph := .clr }) ∧
    (∀ w rest, s.reqs = w :: rest → w.getLsbD 32 = true → s.conn = .disconnected → step s =
      .next { s with
        reqs := rest, rp := none, rsp := some ⟨.notConnected, .noEvent, 0⟩,
        faults := s.faults ++ [.notConnected] })

/-- R174, R177. `conn` changes only in the RESP step of a detection tick: to Connected after JB_RESET with the
event Attached, to Disconnected after JB_PING with the event Detached; and an event is produced on no other
edge. -/
def Obligations.ConnChangesOnlyOnDetectionTick : Prop :=
  ∀ s t : State, s.Inv → s.rst = false → step s = .next t →
    (t.conn ≠ s.conn → s.ph = .resp ∧ s.opR = .tick) ∧
    (t.conn = .connected ∧ s.conn = .disconnected ↔ ∃ r, t.rsp = some r ∧ r.event = .attached) ∧
    (t.conn = .disconnected ∧ s.conn = .connected ↔ ∃ r, t.rsp = some r ∧ r.event = .detached) ∧
    (s.conn = .disconnected → t.conn = .connected → s.cmdR = .reset) ∧
    (s.conn = .connected → t.conn = .disconnected → s.cmdR = .ping)

/-- R174, R173, R242. A whole TICK under a well-formed CFG, from IDLE with the request on the port and a
controller whose answers let both poll loops end (`b1` and `b2` are the busy reads, and under a POLL_LIMIT
fewer than it allows): after the step counts of R242 the block is idle again, the request is gone, and the
command, `conn` and the response are those of R174's table. -/
def Obligations.TickRunsOneIdentifyCommand : Prop :=
  ∀ (s : State) (w : HostReqWord) (rest : List HostReqWord) (b1 b2 more : List Word) (c1 c2 rw : Word),
    s.ownStep → s.cfg.wellFormed = true → s.ph = .idle → s.reqs = w :: rest → w.getLsbD 32 = false →
    s.answers = b1 ++ c1 :: (b2 ++ c2 :: rw :: more) →
    (∀ r ∈ b1 ++ b2, r.getLsbD s.cfg.pollBit.val = true) →
    (∀ r ∈ [c1, c2], r.getLsbD s.cfg.pollBit.val = false) →
    (∀ m ∈ s.cfg.pollLimit, b1.length < m ∧ b2.length < m) →
    ∃ t, core.run (s.cfg.clrIdWords + 7 + b1.length + b2.length) s = .next t ∧
      t.ph = .idle ∧ t.rwR = rw ∧ t.reqs = rest ∧ t.answers = more ∧
      t.cmdR = (if s.conn = .disconnected then .reset else .ping) ∧
      t.conn = (if rw.extractLsb' 16 16 = 0x0004#16 then .connected else .disconnected) ∧
      t.rsp = some ⟨.ok, if t.conn = s.conn then .noEvent
        else if t.conn = .connected then .attached else .detached, 0⟩

/-- R175, R242. A whole TRANSACT under a well-formed CFG, from IDLE while Connected with the request on the port
and a controller whose answers let the four poll loops end: after 1 + (39 + a + b) + (39 + a' + b') steps
the block is idle again, `conn` is unchanged, and the response is OK with `swap32` of the word read after
the JB_READ. -/
def Obligations.TransactRunsWriteThenRead : Prop :=
  ∀ (s : State) (w : HostReqWord) (rest : List HostReqWord) (b1 b2 b3 b4 more : List Word)
    (c1 c2 c3 c4 rw : Word),
    s.ownStep → s.cfg.wellFormed = true → s.ph = .idle → s.reqs = w :: rest → w.getLsbD 32 = true →
    s.conn = .connected →
    s.answers = b1 ++ c1 :: (b2 ++ c2 :: (b3 ++ c3 :: (b4 ++ c4 :: rw :: more))) →
    (∀ r ∈ b1 ++ b2 ++ b3 ++ b4, r.getLsbD s.cfg.pollBit.val = true) →
    (∀ r ∈ [c1, c2, c3, c4], r.getLsbD s.cfg.pollBit.val = false) →
    (∀ m ∈ s.cfg.pollLimit, b1.length < m ∧ b2.length < m ∧ b3.length < m ∧ b4.length < m) →
    ∃ t, core.run (1 + (39 + b1.length + b2.length) + (39 + b3.length + b4.length)) s = .next t ∧
      t.ph = .idle ∧ t.conn = .connected ∧ t.reqs = rest ∧ t.answers = more ∧
      t.valR = w.extractLsb' 0 32 ∧ t.rwR = rw ∧
      t.rsp = some ⟨.ok, .noEvent, swap32 rw⟩

/-! ### The whole machine (10_state.md, 20_memory.md, 60_exceptions.md, 70_reset_and_hazards.md) -/

/-- R93, R147, R170. What a step runs: the decoded request on the port of an idle block, which leaves the port;
the command in progress of a busy block; a presented operation that decodes (assumption 10). Each runs
with the output ports cleared. -/
def Obligations.StepRunsFetchedOperation : Prop :=
  ∀ s : State, s.rst = false → s.cfg.wellFormed = true →
    (∀ w rest, s.presented = none → s.ph = .idle → s.reqs = w :: rest →
      step s = exec (decodeHostReq w) { s with rp := none, rsp := none, reqs := rest }) ∧
    (s.presented = none → s.ph ≠ .idle →
      step s = exec (s.cmdR.instr s.valR) { s with rp := none, rsp := none }) ∧
    (∀ p i, s.presented = some p → decode s.cfg p = .ok i →
      step s = exec i { s with rp := none, rsp := none, presented := none }) ∧
    (∀ p e, s.presented = some p → decode s.cfg p = .error e → step s = .refused (.undecodable e))

/-- R9, U14. A step under a configuration that is not well formed is refused by name, unless it is a reset edge. -/
def Obligations.IllFormedCfgRefused : Prop :=
  ∀ s : State, s.rst = false → s.cfg.wellFormed = false → step s = .refused .cfgNotWellFormed

/-- R220. A clock edge with `rst` = 1, in any state: Disconnected, IDLE, `connected` = 0, no response pending; no
access is made, and the windows and the configuration are as they were (R221). -/
def Obligations.ResetEdgeEntersResetState : Prop :=
  ∀ s : State, s.rst = true →
    ∃ t, step s = .next t ∧ t.conn = .disconnected ∧ t.ph = .idle ∧ t.connectedOut = false ∧
      t.rsp = none ∧ t.rp = none ∧
      SameBytes s.ctrl t.ctrl ∧ SameBytes s.buf t.buf ∧ t.cfg = s.cfg

/-- R43, R20, R21, R31. What reset leaves: Disconnected, IDLE, `connected` = 0, no response pending, `req_ready`
= 1, and neither window written; the first request, a TICK, then begins JB_RESET and a TRANSACT raises
NotConnected (R222). -/
def Obligations.ResetStateValues : Prop :=
  State.reset.conn = .disconnected ∧ State.reset.ph = .idle ∧ State.reset.connectedOut = false ∧
  State.reset.rsp = none ∧ State.reset.rp = none ∧ State.reset.reqReady = true ∧
  State.reset.ctrl = [] ∧ State.reset.buf = [] ∧
  (∀ v : Word, ∃ t, step { State.reset with reqs := [(0#1 ++ v : BitVec 33)] } = .next t ∧
    t.cmdR = .reset ∧ t.ph = .clr) ∧
  ∀ v : Word, ∃ t, step { State.reset with reqs := [(1#1 ++ v : BitVec 33)] } = .next t ∧
    t.rsp = some ⟨.notConnected, .noEvent, 0⟩ ∧ t.ph = .idle

/-- The invariant of the machine holds in the reset state. -/
def Obligations.ResetStateHasInvariant : Prop := State.reset.Inv

/-- R22, R147. The phase moves along the fixed graph and nowhere else, in every state, and each edge is taken
exactly on its condition. -/
def Obligations.StepFollowsPhaseGraph : Prop :=
  ∀ s t : State, s.ownStep → step s = .next t → ∀ p, PhaseEdge s p ↔ t.ph = p

/-- R53, R22, R26, R145, and the canonical form in which the model records the windows (DESIGN CHOICE, assumption
5): every step, a reset edge included, keeps the invariant of the machine. -/
def Obligations.StepKeepsInvariant : Prop :=
  ∀ s t : State, s.Inv → step s = .next t → t.Inv

/-- R144, R147. A state of the machine's own runs always has a step: it never faults and is never refused, in
particular not in a poll phase. -/
def Obligations.InvariantStepNeverStops : Prop :=
  ∀ s : State, s.Inv → ∃ t, step s = .next t

/-- R84. An own step presents a response exactly when it ends a host operation: it takes the block from a busy
phase to IDLE, or it accepts a TRANSACT while Disconnected. -/
def Obligations.ResponseExactlyAtEndOfOperation : Prop :=
  ∀ s t : State, s.ownStep → step s = .next t →
    (t.rsp ≠ none ↔
      (s.ph ≠ .idle ∧ t.ph = .idle) ∨
      (s.ph = .idle ∧ s.conn = .disconnected ∧ ∃ w rest, s.reqs = w :: rest ∧ w.getLsbD 32 = true))

/-- R199, R177. A step that ends in an error response leaves `conn`, both windows and every other register of the
block as they were but for the read count, goes to IDLE, and gives no event and no value (R83). -/
def Obligations.ErrorResponseChangesNothingElse : Prop :=
  ∀ s t : State, step s = .next t → t.errored →
    t.ph = .idle ∧ t.conn = s.conn ∧ SameBytes s.ctrl t.ctrl ∧ SameBytes s.buf t.buf ∧
    t.valR = s.valR ∧ t.opR = s.opR ∧ t.cmdR = s.cmdR ∧ t.k = s.k ∧ t.cwR = s.cwR ∧ t.rwR = s.rwR ∧
    ∃ r, t.rsp = some r ∧ r.event = .noEvent ∧ r.value = 0

/-- R234, R65. An own step taken in POLL1, ARM or POLL2, from before the arm to the end of the transfer, neither
writes nor reads the Command Buffer. -/
def Obligations.NoBufferAccessInFlight : Prop :=
  ∀ s t : State, s.ownStep → step s = .next t →
    (s.ph = .poll1 ∨ s.ph = .arm ∨ s.ph = .poll2) →
    SameBytes s.buf t.buf ∧ ∀ index v, t.rp ≠ some (.writeBuffer index v) ∧ t.rp ≠ some (.readBuffer index v)

/-- R233, R66. The block comes to ARM, and to RESP, only by a read of `CTRL[POLL_INDEX]` that shows the busy bit
as 0; a control write other than the status-clear value in ENC and the error-clear pattern in ERRCLR is that of
`cw_r` in ARM; and the buffer is read only in RESP. So the control word is written and the response read only
after such a read. -/
def Obligations.PollBracketsTransfer : Prop :=
  ∀ s t : State, s.ownStep → step s = .next t →
    (t.ph = .arm → s.ph = .poll1 ∧ ∃ r, t.rp = some (.readControl s.cfg.pollIndex r) ∧
      r.getLsbD s.cfg.pollBit.val = false) ∧
    (t.ph = .resp → s.ph = .poll2 ∧ ∃ r, t.rp = some (.readControl s.cfg.pollIndex r) ∧
      r.getLsbD s.cfg.pollBit.val = false) ∧
    (∀ i v, t.rp = some (.writeControl i v) →
      (s.ph = .arm ∧ i = s.cfg.cwIndex ∧ v = s.cwR) ∨
      (s.ph = .enc ∧ i = s.cfg.statusIndex ∧ v = s.cfg.statusClearValue) ∨
      (s.ph = .errclr ∧ i = s.cfg.errclrIndex ∧ v = s.cfg.errclrValue)) ∧
    ∀ i r, t.rp = some (.readBuffer i r) → s.ph = .resp

/-- R53, R34, R33. The accesses an own step makes: control writes only of the control word of the command in
progress, the status-clear value and the error-clear pattern, each at its own index and in its own phase;
control reads only of `CTRL[POLL_INDEX]`; buffer reads only of `BUF[0]`, in RESP. -/
def Obligations.OnlySequencerAccessesEmitted : Prop :=
  ∀ s t : State, s.Inv → s.rst = false → step s = .next t →
    (∀ i v, t.rp = some (.writeControl i v) →
      (s.ph = .arm ∧ i = s.cfg.cwIndex ∧ v = commandWord s.cfg s.cmdR) ∨
      (s.ph = .enc ∧ i = s.cfg.statusIndex ∧ v = s.cfg.statusClearValue) ∨
      (s.ph = .errclr ∧ i = s.cfg.errclrIndex ∧ v = s.cfg.errclrValue)) ∧
    (∀ i r, t.rp = some (.readControl i r) → (s.ph = .poll1 ∨ s.ph = .poll2) ∧ i = s.cfg.pollIndex) ∧
    (∀ i v, t.rp = some (.writeBuffer i v) → s.ph = .clr ∨ s.ph = .fill0 ∨ s.ph = .fill1) ∧
    (∀ i r, t.rp = some (.readBuffer i r) → s.ph = .resp ∧ i = 0)

/-- The windows stay in canonical form under every step, in every state, presented operations and reset edges
included. The canonical form belongs to the model's own record of the windows (DESIGN CHOICE, assumption 5); no
rule of the spec speaks of it. -/
def Obligations.StepKeepsWindowsCanonical : Prop :=
  ∀ s t : State, step s = .next t → Memory.wf s.ctrl = true → Memory.wf s.buf = true →
    Memory.wf t.ctrl = true ∧ Memory.wf t.buf = true

/-- R13. No step, in any state, writes the configuration. -/
def Obligations.StepKeepsConfiguration : Prop :=
  ∀ s t : State, step s = .next t → t.cfg = s.cfg

/-! ### Encodings (30_encoding.md) -/

/-- R81, R85, R88, R93, R135. Under a well-formed CFG every well-formed operation, with every operand its encoding
admits, is decoded back from its encoding. That ENCODE stands in a control word is the model's choice (DESIGN
CHOICE, assumption 26). -/
def Obligations.DecodeOfEncode : Prop :=
  ∀ (c : Cfg) (i : Instr), c.wellFormed = true → i.wellFormed c = true → decode c (encode c i) = .ok i

/-- R93, R97. A packet that decodes is the encoding of what it decodes to, under every CFG, and what it decodes to is
well formed: no two packets stand for one operation. For a control word this rests on the model's decoder, which
accepts exactly the words that ENCODE produces (DEDUCED from R33, R87, R96 and R135, assumption 24), and on ENCODE
standing in that word (DESIGN CHOICE, assumption 26); no rule of the spec says it. -/
def Obligations.EncodeOfDecode : Prop :=
  ∀ (c : Cfg) (p : Packet) (i : Instr), decode c p = .ok i → encode c i = p ∧ i.wellFormed c = true

/-- R95, R97, R87, R33, R85. What names no operation is refused: under every CFG each packet that is not the
encoding of a well-formed operation. And by its own name each of: a frame of no bytes, a header byte other than the
four, a short JB_WRITE frame, bytes after a frame, a control word whose channel fields differ, one with a flag clear
or a bit outside the seven fields set (assumption 24), a control register index outside the window. -/
def Obligations.UndecodableRejectedByName : Prop :=
  (∀ (c : Cfg) (h : Byte) (rest : List Byte), h ≠ 0xFF → h ≠ 0x00 → h ≠ 0x14 → h ≠ 0x15 →
    decode c (.frame (h :: rest)) = .error (.unknownHeader h)) ∧
  (∀ (c : Cfg) (rest : List Byte), rest.length < 4 →
    decode c (.frame (0x15 :: rest)) = .error .truncatedFrame) ∧
  (∀ (c : Cfg) (rest : List Byte), 4 < rest.length →
    decode c (.frame (0x15 :: rest)) = .error .trailingBytes) ∧
  (∀ (c : Cfg) (b : Byte) (rest : List Byte),
    decode c (.frame (0xFF :: b :: rest)) = .error .trailingBytes ∧
    decode c (.frame (0x00 :: b :: rest)) = .error .trailingBytes ∧
    decode c (.frame (0x14 :: b :: rest)) = .error .trailingBytes) ∧
  (∀ (c : Cfg) (w : Word), w.extractLsb' c.posChsel 2 ≠ w.extractLsb' c.posChdup 2 →
    decode c (.controlWord w) = .error .channelNotMirrored) ∧
  (∀ (c : Cfg) (w : Word), c.wellFormed = true →
    w.extractLsb' c.posChsel 2 = w.extractLsb' c.posChdup 2 →
    (w.getLsbD c.posChen = false ∨ w.getLsbD c.posCmden = false ∨ w.getLsbD c.posStart = false ∨
      ∃ b, b < 32 ∧ (∀ f ∈ c.fields, b < f.1 ∨ f.1 + f.2 ≤ b) ∧ w.getLsbD b = true) →
    decode c (.controlWord w) = .error .controlWordBits) ∧
  (∀ c : Cfg, decode c (.frame []) = .error .emptyFrame) ∧
  (∀ (c : Cfg) (p : Packet), (∀ i : Instr, i.wellFormed c = true → encode c i ≠ p) →
    ∃ e, decode c p = .error e) ∧
  ∀ (c : Cfg) (we : BitVec 1) (index : BitVec 5) (v : Word), c.nctrl ≤ index.toNat →
    decode c (.regPort (0#1 ++ we ++ index ++ v : BitVec 39)) = .error .indexOutsideWindow

/-- R81, R85, R87, R88. Words written out from the spec's format tables decode to what they stand for, the control
word under CFG_REF. -/
def Obligations.WrittenOutWordsDecode : Prop :=
  decode Cfg.ref (.hostReq 0x000000000) = .ok (.tick 0) ∧
  decode Cfg.ref (.hostReq 0x100000400) = .ok (.transact 1024) ∧
  decode Cfg.ref (.regPort 0x2D03010383) = .ok (.writeControl 13 0x03010383) ∧
  decode Cfg.ref (.regPort 0x0D00000000) = .ok (.readControl 13 0) ∧
  decode Cfg.ref (.regPort 0x6014000000) = .ok (.writeBuffer 0 0x14000000) ∧
  decode Cfg.ref (.regPort 0x4000000000) = .ok (.readBuffer 0 0) ∧
  decode Cfg.ref (.controlWord 0x03010383) = .ok (.encode 1 3 1) ∧
  decode Cfg.ref (.frame [0xFF]) = .ok .jbReset ∧
  decode Cfg.ref (.frame [0x15, 0x00, 0x00, 0x04, 0x00]) = .ok (.jbWrite 1024)

/-- R83, R190. The response word: two bits of error code, two bits of event, 32 bits of value, with the codes of
R83's table; and a step of the machine gives no value with the response to a TICK, no event with that to a
TRANSACT, and neither with an error response. -/
def Obligations.ResponseWordFormat : Prop :=
  (∀ v : Word,
    Response.word ⟨.ok, .noEvent, v⟩ = (0#2 ++ 0#2 ++ v : BitVec 36) ∧
    Response.word ⟨.ok, .attached, v⟩ = (0#2 ++ 1#2 ++ v : BitVec 36) ∧
    Response.word ⟨.ok, .detached, v⟩ = (0#2 ++ 2#2 ++ v : BitVec 36) ∧
    Response.word ⟨.notConnected, .noEvent, v⟩ = (1#2 ++ 0#2 ++ v : BitVec 36) ∧
    Response.word ⟨.busTimeout, .noEvent, v⟩ = (2#2 ++ 0#2 ++ v : BitVec 36)) ∧
  ∀ (s t : State) (r : Response), s.Inv → s.rst = false → step s = .next t → t.rsp = some r →
    (t.opR = .tick → r.value = 0) ∧ (t.opR = .transact → r.event = .noEvent) ∧
    (r.err ≠ .ok → r.event = .noEvent ∧ r.value = 0)
end

