-- ==== Sys2Proof/Laws/Memory.lean ====
section
/-! SUPPORT. Laws of the register windows: a read after a write, what a write leaves alone, and that every write
keeps the canonical form. -/

namespace Sys2Proof.Machine

theorem Memory.read_write_same (m : Memory) (a : Nat) (v : Byte) :
    Memory.read (Memory.write m a v) a = some v := by
  induction m with
  | nil => simp [Memory.write, Memory.read]
  | cons c rest ih =>
    obtain ⟨b, w⟩ := c
    simp only [Memory.write]
    split
    · simp [Memory.read]
    · split
      · simp [Memory.read]
      · simp [Memory.read, *]

theorem Memory.read_write_other (m : Memory) {a x : Nat} (v : Byte) (h : x ≠ a) :
    Memory.read (Memory.write m a v) x = Memory.read m x := by
  induction m with
  | nil => simp [Memory.write, Memory.read, h]
  | cons c rest ih =>
    obtain ⟨b, w⟩ := c
    simp only [Memory.write]
    split
    · simp [Memory.read, h]
    · split
      · subst_vars
        simp [Memory.read, h]
      · simp [Memory.read, ih]

/-- A write keeps a lower bound of the addresses that the written address respects. -/
theorem Memory.write_above (m : Memory) (a lo : Nat) (v : Byte) (h : ∀ c ∈ m, lo < c.1)
    (ha : lo < a) : ∀ c ∈ Memory.write m a v, lo < c.1 := by
  induction m with
  | nil => simpa [Memory.write] using ha
  | cons c rest ih =>
    obtain ⟨b, w⟩ := c
    simp only [List.mem_cons, forall_eq_or_imp] at h
    simp only [Memory.write]
    split
    · simp only [List.mem_cons, forall_eq_or_imp]
      exact ⟨ha, h⟩
    · split
      · simp only [List.mem_cons, forall_eq_or_imp]
        exact ⟨ha, h.2⟩
      · simp only [List.mem_cons, forall_eq_or_imp]
        exact ⟨h.1, ih h.2⟩

theorem Memory.wf_cons (c : Host.Cell) (m : Memory) :
    Memory.wf (c :: m) = true ↔ (∀ d ∈ m, c.1 < d.1) ∧ Memory.wf m = true := by
  simp [Memory.wf]

theorem Memory.wf_write (m : Memory) (a : Nat) (v : Byte) (h : Memory.wf m = true) :
    Memory.wf (Memory.write m a v) = true := by
  induction m with
  | nil => simp [Memory.write, Memory.wf]
  | cons c rest ih =>
    obtain ⟨b, w⟩ := c
    have hc := (Memory.wf_cons _ _).1 h
    simp only [Memory.write]
    split
    · rename_i hab
      refine (Memory.wf_cons _ _).2 ⟨?_, h⟩
      intro d hd
      rcases List.mem_cons.1 hd with rfl | hd
      · exact hab
      · exact lt_trans hab (hc.1 d hd)
    · split
      · rename_i hab
        subst hab
        exact (Memory.wf_cons _ _).2 ⟨hc.1, hc.2⟩
      · refine (Memory.wf_cons _ _).2 ⟨?_, ih hc.2⟩
        exact Memory.write_above rest a b v hc.1 (by omega)

theorem Memory.below_write (m : Memory) (a bound : Nat) (v : Byte) (h : Memory.below m bound)
    (ha : a < bound) : Memory.below (Memory.write m a v) bound := by
  induction m with
  | nil => simpa [Memory.write, Memory.below] using ha
  | cons c rest ih =>
    obtain ⟨b, w⟩ := c
    simp only [Memory.below, List.mem_cons, forall_eq_or_imp] at h ih ⊢
    simp only [Memory.write]
    split
    · simp only [List.mem_cons, forall_eq_or_imp]
      exact ⟨ha, h⟩
    · split
      · simp only [List.mem_cons, forall_eq_or_imp]
        exact ⟨ha, h.2⟩
      · simp only [List.mem_cons, forall_eq_or_imp]
        exact ⟨h.1, ih h.2⟩

theorem Memory.wf_storeWord (o : LaneOrder) (m : Memory) (i : Nat) (v : Word)
    (h : Memory.wf m = true) : Memory.wf (Memory.storeWord o m i v) = true :=
  Memory.wf_write _ _ _ (Memory.wf_write _ _ _ (Memory.wf_write _ _ _ (Memory.wf_write _ _ _ h)))

theorem Memory.below_storeWord (o : LaneOrder) (m : Memory) (i bound : Nat) (v : Word)
    (h : Memory.below m (4 * bound)) (hi : i < bound) :
    Memory.below (Memory.storeWord o m i v) (4 * bound) :=
  Memory.below_write _ _ _ _ (Memory.below_write _ _ _ _ (Memory.below_write _ _ _ _
    (Memory.below_write _ _ _ _ h (by omega)) (by omega)) (by omega)) (by omega)

/-- What storing a word does to every byte of the window. -/
theorem Memory.storedWord_storeWord (o : LaneOrder) (m : Memory) (i : Nat) (v : Word) :
    StoredWord o m (Memory.storeWord o m i v) i v := by
  refine ⟨fun j hj => ?_, fun a ha => ?_⟩
  · obtain rfl | rfl | rfl | rfl : j = 0 ∨ j = 1 ∨ j = 2 ∨ j = 3 := by omega
    · rw [Memory.storeWord, Memory.read_write_other _ _ (by omega),
        Memory.read_write_other _ _ (by omega), Memory.read_write_other _ _ (by omega)]
      exact Memory.read_write_same _ _ _
    · rw [Memory.storeWord, Memory.read_write_other _ _ (by omega),
        Memory.read_write_other _ _ (by omega), Memory.read_write_same]
    · rw [Memory.storeWord, Memory.read_write_other _ _ (by omega), Memory.read_write_same]
    · rw [Memory.storeWord, Memory.read_write_same]
  · rw [Memory.storeWord, Memory.read_write_other _ _ (by omega),
      Memory.read_write_other _ _ (by omega), Memory.read_write_other _ _ (by omega),
      Memory.read_write_other _ _ (by omega)]

/-- The four bytes of a word, most significant first, put together again. -/
theorem bytes_append (v : Word) :
    v.extractLsb' 24 8 ++ v.extractLsb' 16 8 ++ v.extractLsb' 8 8 ++ v.extractLsb' 0 8 = v := by
  apply BitVec.eq_of_getLsbD_eq
  intro i hi
  simp only [BitVec.getLsbD_append, BitVec.getLsbD_extractLsb']
  split_ifs
  · simp [*]
  · have h1 : i - 8 < 8 := by omega
    have h2 : 8 + (i - 8) = i := by omega
    simp only [h1, h2, decide_true, Bool.true_and]
  · have h1 : i - 8 - 8 < 8 := by omega
    have h2 : 16 + (i - 8 - 8) = i := by omega
    simp only [h1, h2, decide_true, Bool.true_and]
  · have h1 : i - 8 - 8 - 8 < 8 := by omega
    have h2 : 24 + (i - 8 - 8 - 8) = i := by omega
    simp only [h1, h2, decide_true, Bool.true_and]

/-- The lanes of a word, put together again. -/
theorem joinLanes_laneByte (o : LaneOrder) (v : Word) :
    joinLanes o (laneByte o v 0) (laneByte o v 1) (laneByte o v 2) (laneByte o v 3) = v := by
  cases o <;> exact bytes_append v

theorem Memory.loadWord_of_stored {o : LaneOrder} {m m' : Memory} {i : Nat} {v : Word}
    (h : StoredWord o m m' i v) : Memory.loadWord o m' i = some v := by
  have h0 := h.1 0 (by omega)
  have h1 := h.1 1 (by omega)
  have h2 := h.1 2 (by omega)
  have h3 := h.1 3 (by omega)
  simp only [Nat.add_zero] at h0
  simp [Memory.loadWord, h0, h1, h2, h3, joinLanes_laneByte]

end Sys2Proof.Machine
end

