-- ==== Sys2Proof/Laws/State.lean ====
section
/-! SUPPORT. What each named update of the state does to each field: one lemma per field per update. -/

namespace Sys2Proof.Machine

@[simp] theorem State.storeCtrl_cfg (s : State) (i : Nat) (v : Word) :
    (s.storeCtrl i v).cfg = s.cfg := rfl
@[simp] theorem State.storeCtrl_conn (s : State) (i : Nat) (v : Word) :
    (s.storeCtrl i v).conn = s.conn := rfl
@[simp] theorem State.storeCtrl_ph (s : State) (i : Nat) (v : Word) :
    (s.storeCtrl i v).ph = s.ph := rfl
@[simp] theorem State.storeCtrl_opR (s : State) (i : Nat) (v : Word) :
    (s.storeCtrl i v).opR = s.opR := rfl
@[simp] theorem State.storeCtrl_valR (s : State) (i : Nat) (v : Word) :
    (s.storeCtrl i v).valR = s.valR := rfl
@[simp] theorem State.storeCtrl_cmdR (s : State) (i : Nat) (v : Word) :
    (s.storeCtrl i v).cmdR = s.cmdR := rfl
@[simp] theorem State.storeCtrl_k (s : State) (i : Nat) (v : Word) :
    (s.storeCtrl i v).k = s.k := rfl
@[simp] theorem State.storeCtrl_cwR (s : State) (i : Nat) (v : Word) :
    (s.storeCtrl i v).cwR = s.cwR := rfl
@[simp] theorem State.storeCtrl_rwR (s : State) (i : Nat) (v : Word) :
    (s.storeCtrl i v).rwR = s.rwR := rfl
@[simp] theorem State.storeCtrl_n (s : State) (i : Nat) (v : Word) :
    (s.storeCtrl i v).n = s.n := rfl
@[simp] theorem State.storeCtrl_loopReads (s : State) (i : Nat) (v : Word) :
    (s.storeCtrl i v).loopReads = s.loopReads := rfl
@[simp] theorem State.storeCtrl_ctrl (s : State) (i : Nat) (v : Word) :
    (s.storeCtrl i v).ctrl = Memory.storeWord ctrlLanes s.ctrl i v := rfl
@[simp] theorem State.storeCtrl_buf (s : State) (i : Nat) (v : Word) :
    (s.storeCtrl i v).buf = s.buf := rfl
@[simp] theorem State.storeCtrl_rp (s : State) (i : Nat) (v : Word) :
    (s.storeCtrl i v).rp = s.rp := rfl
@[simp] theorem State.storeCtrl_rsp (s : State) (i : Nat) (v : Word) :
    (s.storeCtrl i v).rsp = s.rsp := rfl
@[simp] theorem State.storeCtrl_reqs (s : State) (i : Nat) (v : Word) :
    (s.storeCtrl i v).reqs = s.reqs := rfl
@[simp] theorem State.storeCtrl_rst (s : State) (i : Nat) (v : Word) :
    (s.storeCtrl i v).rst = s.rst := rfl
@[simp] theorem State.storeCtrl_answers (s : State) (i : Nat) (v : Word) :
    (s.storeCtrl i v).answers = s.answers := rfl
@[simp] theorem State.storeCtrl_draws (s : State) (i : Nat) (v : Word) :
    (s.storeCtrl i v).draws = s.draws := rfl
@[simp] theorem State.storeCtrl_presented (s : State) (i : Nat) (v : Word) :
    (s.storeCtrl i v).presented = s.presented := rfl
@[simp] theorem State.storeCtrl_convOut (s : State) (i : Nat) (v : Word) :
    (s.storeCtrl i v).convOut = s.convOut := rfl
@[simp] theorem State.storeCtrl_faults (s : State) (i : Nat) (v : Word) :
    (s.storeCtrl i v).faults = s.faults := rfl

@[simp] theorem State.storeBuf_cfg (s : State) (i : Nat) (v : Word) :
    (s.storeBuf i v).cfg = s.cfg := rfl
@[simp] theorem State.storeBuf_conn (s : State) (i : Nat) (v : Word) :
    (s.storeBuf i v).conn = s.conn := rfl
@[simp] theorem State.storeBuf_ph (s : State) (i : Nat) (v : Word) :
    (s.storeBuf i v).ph = s.ph := rfl
@[simp] theorem State.storeBuf_opR (s : State) (i : Nat) (v : Word) :
    (s.storeBuf i v).opR = s.opR := rfl
@[simp] theorem State.storeBuf_valR (s : State) (i : Nat) (v : Word) :
    (s.storeBuf i v).valR = s.valR := rfl
@[simp] theorem State.storeBuf_cmdR (s : State) (i : Nat) (v : Word) :
    (s.storeBuf i v).cmdR = s.cmdR := rfl
@[simp] theorem State.storeBuf_k (s : State) (i : Nat) (v : Word) :
    (s.storeBuf i v).k = s.k := rfl
@[simp] theorem State.storeBuf_cwR (s : State) (i : Nat) (v : Word) :
    (s.storeBuf i v).cwR = s.cwR := rfl
@[simp] theorem State.storeBuf_rwR (s : State) (i : Nat) (v : Word) :
    (s.storeBuf i v).rwR = s.rwR := rfl
@[simp] theorem State.storeBuf_n (s : State) (i : Nat) (v : Word) :
    (s.storeBuf i v).n = s.n := rfl
@[simp] theorem State.storeBuf_loopReads (s : State) (i : Nat) (v : Word) :
    (s.storeBuf i v).loopReads = s.loopReads := rfl
@[simp] theorem State.storeBuf_ctrl (s : State) (i : Nat) (v : Word) :
    (s.storeBuf i v).ctrl = s.ctrl := rfl
@[simp] theorem State.storeBuf_buf (s : State) (i : Nat) (v : Word) :
    (s.storeBuf i v).buf = Memory.storeWord s.cfg.laneOrder s.buf i v := rfl
@[simp] theorem State.storeBuf_rp (s : State) (i : Nat) (v : Word) :
    (s.storeBuf i v).rp = s.rp := rfl
@[simp] theorem State.storeBuf_rsp (s : State) (i : Nat) (v : Word) :
    (s.storeBuf i v).rsp = s.rsp := rfl
@[simp] theorem State.storeBuf_reqs (s : State) (i : Nat) (v : Word) :
    (s.storeBuf i v).reqs = s.reqs := rfl
@[simp] theorem State.storeBuf_rst (s : State) (i : Nat) (v : Word) :
    (s.storeBuf i v).rst = s.rst := rfl
@[simp] theorem State.storeBuf_answers (s : State) (i : Nat) (v : Word) :
    (s.storeBuf i v).answers = s.answers := rfl
@[simp] theorem State.storeBuf_draws (s : State) (i : Nat) (v : Word) :
    (s.storeBuf i v).draws = s.draws := rfl
@[simp] theorem State.storeBuf_presented (s : State) (i : Nat) (v : Word) :
    (s.storeBuf i v).presented = s.presented := rfl
@[simp] theorem State.storeBuf_convOut (s : State) (i : Nat) (v : Word) :
    (s.storeBuf i v).convOut = s.convOut := rfl
@[simp] theorem State.storeBuf_faults (s : State) (i : Nat) (v : Word) :
    (s.storeBuf i v).faults = s.faults := rfl

@[simp] theorem State.takeAnswer_cfg (s : State) :
    (s.takeAnswer).cfg = s.cfg := rfl
@[simp] theorem State.takeAnswer_conn (s : State) :
    (s.takeAnswer).conn = s.conn := rfl
@[simp] theorem State.takeAnswer_ph (s : State) :
    (s.takeAnswer).ph = s.ph := rfl
@[simp] theorem State.takeAnswer_opR (s : State) :
    (s.takeAnswer).opR = s.opR := rfl
@[simp] theorem State.takeAnswer_valR (s : State) :
    (s.takeAnswer).valR = s.valR := rfl
@[simp] theorem State.takeAnswer_cmdR (s : State) :
    (s.takeAnswer).cmdR = s.cmdR := rfl
@[simp] theorem State.takeAnswer_k (s : State) :
    (s.takeAnswer).k = s.k := rfl
@[simp] theorem State.takeAnswer_cwR (s : State) :
    (s.takeAnswer).cwR = s.cwR := rfl
@[simp] theorem State.takeAnswer_rwR (s : State) :
    (s.takeAnswer).rwR = s.rwR := rfl
@[simp] theorem State.takeAnswer_n (s : State) :
    (s.takeAnswer).n = s.n := rfl
@[simp] theorem State.takeAnswer_loopReads (s : State) :
    (s.takeAnswer).loopReads = s.loopReads := rfl
@[simp] theorem State.takeAnswer_ctrl (s : State) :
    (s.takeAnswer).ctrl = s.ctrl := rfl
@[simp] theorem State.takeAnswer_buf (s : State) :
    (s.takeAnswer).buf = s.buf := rfl
@[simp] theorem State.takeAnswer_rp (s : State) :
    (s.takeAnswer).rp = s.rp := rfl
@[simp] theorem State.takeAnswer_rsp (s : State) :
    (s.takeAnswer).rsp = s.rsp := rfl
@[simp] theorem State.takeAnswer_reqs (s : State) :
    (s.takeAnswer).reqs = s.reqs := rfl
@[simp] theorem State.takeAnswer_rst (s : State) :
    (s.takeAnswer).rst = s.rst := rfl
@[simp] theorem State.takeAnswer_answers (s : State) :
    (s.takeAnswer).answers = s.answers.tail := rfl
@[simp] theorem State.takeAnswer_draws (s : State) :
    (s.takeAnswer).draws = s.draws + 1 := rfl
@[simp] theorem State.takeAnswer_presented (s : State) :
    (s.takeAnswer).presented = s.presented := rfl
@[simp] theorem State.takeAnswer_convOut (s : State) :
    (s.takeAnswer).convOut = s.convOut := rfl
@[simp] theorem State.takeAnswer_faults (s : State) :
    (s.takeAnswer).faults = s.faults := rfl

@[simp] theorem State.access_cfg (s : State) (a : Access) :
    (s.access a).cfg = s.cfg := rfl
@[simp] theorem State.access_conn (s : State) (a : Access) :
    (s.access a).conn = s.conn := rfl
@[simp] theorem State.access_ph (s : State) (a : Access) :
    (s.access a).ph = s.ph := rfl
@[simp] theorem State.access_opR (s : State) (a : Access) :
    (s.access a).opR = s.opR := rfl
@[simp] theorem State.access_valR (s : State) (a : Access) :
    (s.access a).valR = s.valR := rfl
@[simp] theorem State.access_cmdR (s : State) (a : Access) :
    (s.access a).cmdR = s.cmdR := rfl
@[simp] theorem State.access_k (s : State) (a : Access) :
    (s.access a).k = s.k := rfl
@[simp] theorem State.access_cwR (s : State) (a : Access) :
    (s.access a).cwR = s.cwR := rfl
@[simp] theorem State.access_rwR (s : State) (a : Access) :
    (s.access a).rwR = s.rwR := rfl
@[simp] theorem State.access_n (s : State) (a : Access) :
    (s.access a).n = s.n := rfl
@[simp] theorem State.access_loopReads (s : State) (a : Access) :
    (s.access a).loopReads = s.loopReads := rfl
@[simp] theorem State.access_ctrl (s : State) (a : Access) :
    (s.access a).ctrl = s.ctrl := rfl
@[simp] theorem State.access_buf (s : State) (a : Access) :
    (s.access a).buf = s.buf := rfl
@[simp] theorem State.access_rp (s : State) (a : Access) :
    (s.access a).rp = some a := rfl
@[simp] theorem State.access_rsp (s : State) (a : Access) :
    (s.access a).rsp = s.rsp := rfl
@[simp] theorem State.access_reqs (s : State) (a : Access) :
    (s.access a).reqs = s.reqs := rfl
@[simp] theorem State.access_rst (s : State) (a : Access) :
    (s.access a).rst = s.rst := rfl
@[simp] theorem State.access_answers (s : State) (a : Access) :
    (s.access a).answers = s.answers := rfl
@[simp] theorem State.access_draws (s : State) (a : Access) :
    (s.access a).draws = s.draws := rfl
@[simp] theorem State.access_presented (s : State) (a : Access) :
    (s.access a).presented = s.presented := rfl
@[simp] theorem State.access_convOut (s : State) (a : Access) :
    (s.access a).convOut = s.convOut := rfl
@[simp] theorem State.access_faults (s : State) (a : Access) :
    (s.access a).faults = s.faults := rfl

@[simp] theorem State.clearPorts_cfg (s : State) :
    (s.clearPorts).cfg = s.cfg := rfl
@[simp] theorem State.clearPorts_conn (s : State) :
    (s.clearPorts).conn = s.conn := rfl
@[simp] theorem State.clearPorts_ph (s : State) :
    (s.clearPorts).ph = s.ph := rfl
@[simp] theorem State.clearPorts_opR (s : State) :
    (s.clearPorts).opR = s.opR := rfl
@[simp] theorem State.clearPorts_valR (s : State) :
    (s.clearPorts).valR = s.valR := rfl
@[simp] theorem State.clearPorts_cmdR (s : State) :
    (s.clearPorts).cmdR = s.cmdR := rfl
@[simp] theorem State.clearPorts_k (s : State) :
    (s.clearPorts).k = s.k := rfl
@[simp] theorem State.clearPorts_cwR (s : State) :
    (s.clearPorts).cwR = s.cwR := rfl
@[simp] theorem State.clearPorts_rwR (s : State) :
    (s.clearPorts).rwR = s.rwR := rfl
@[simp] theorem State.clearPorts_n (s : State) :
    (s.clearPorts).n = s.n := rfl
@[simp] theorem State.clearPorts_loopReads (s : State) :
    (s.clearPorts).loopReads = s.loopReads := rfl
@[simp] theorem State.clearPorts_ctrl (s : State) :
    (s.clearPorts).ctrl = s.ctrl := rfl
@[simp] theorem State.clearPorts_buf (s : State) :
    (s.clearPorts).buf = s.buf := rfl
@[simp] theorem State.clearPorts_rp (s : State) :
    (s.clearPorts).rp = none := rfl
@[simp] theorem State.clearPorts_rsp (s : State) :
    (s.clearPorts).rsp = none := rfl
@[simp] theorem State.clearPorts_reqs (s : State) :
    (s.clearPorts).reqs = s.reqs := rfl
@[simp] theorem State.clearPorts_rst (s : State) :
    (s.clearPorts).rst = s.rst := rfl
@[simp] theorem State.clearPorts_answers (s : State) :
    (s.clearPorts).answers = s.answers := rfl
@[simp] theorem State.clearPorts_draws (s : State) :
    (s.clearPorts).draws = s.draws := rfl
@[simp] theorem State.clearPorts_presented (s : State) :
    (s.clearPorts).presented = s.presented := rfl
@[simp] theorem State.clearPorts_convOut (s : State) :
    (s.clearPorts).convOut = s.convOut := rfl
@[simp] theorem State.clearPorts_faults (s : State) :
    (s.clearPorts).faults = s.faults := rfl

@[simp] theorem State.respond_cfg (s : State) (e : RspErr) (ev : RspEvent) (v : Word) :
    (s.respond e ev v).cfg = s.cfg := rfl
@[simp] theorem State.respond_conn (s : State) (e : RspErr) (ev : RspEvent) (v : Word) :
    (s.respond e ev v).conn = s.conn := rfl
@[simp] theorem State.respond_ph (s : State) (e : RspErr) (ev : RspEvent) (v : Word) :
    (s.respond e ev v).ph = s.ph := rfl
@[simp] theorem State.respond_opR (s : State) (e : RspErr) (ev : RspEvent) (v : Word) :
    (s.respond e ev v).opR = s.opR := rfl
@[simp] theorem State.respond_valR (s : State) (e : RspErr) (ev : RspEvent) (v : Word) :
    (s.respond e ev v).valR = s.valR := rfl
@[simp] theorem State.respond_cmdR (s : State) (e : RspErr) (ev : RspEvent) (v : Word) :
    (s.respond e ev v).cmdR = s.cmdR := rfl
@[simp] theorem State.respond_k (s : State) (e : RspErr) (ev : RspEvent) (v : Word) :
    (s.respond e ev v).k = s.k := rfl
@[simp] theorem State.respond_cwR (s : State) (e : RspErr) (ev : RspEvent) (v : Word) :
    (s.respond e ev v).cwR = s.cwR := rfl
@[simp] theorem State.respond_rwR (s : State) (e : RspErr) (ev : RspEvent) (v : Word) :
    (s.respond e ev v).rwR = s.rwR := rfl
@[simp] theorem State.respond_n (s : State) (e : RspErr) (ev : RspEvent) (v : Word) :
    (s.respond e ev v).n = s.n := rfl
@[simp] theorem State.respond_loopReads (s : State) (e : RspErr) (ev : RspEvent) (v : Word) :
    (s.respond e ev v).loopReads = s.loopReads := rfl
@[simp] theorem State.respond_ctrl (s : State) (e : RspErr) (ev : RspEvent) (v : Word) :
    (s.respond e ev v).ctrl = s.ctrl := rfl
@[simp] theorem State.respond_buf (s : State) (e : RspErr) (ev : RspEvent) (v : Word) :
    (s.respond e ev v).buf = s.buf := rfl
@[simp] theorem State.respond_rp (s : State) (e : RspErr) (ev : RspEvent) (v : Word) :
    (s.respond e ev v).rp = s.rp := rfl
@[simp] theorem State.respond_rsp (s : State) (e : RspErr) (ev : RspEvent) (v : Word) :
    (s.respond e ev v).rsp = some ⟨e, ev, v⟩ := rfl
@[simp] theorem State.respond_reqs (s : State) (e : RspErr) (ev : RspEvent) (v : Word) :
    (s.respond e ev v).reqs = s.reqs := rfl
@[simp] theorem State.respond_rst (s : State) (e : RspErr) (ev : RspEvent) (v : Word) :
    (s.respond e ev v).rst = s.rst := rfl
@[simp] theorem State.respond_answers (s : State) (e : RspErr) (ev : RspEvent) (v : Word) :
    (s.respond e ev v).answers = s.answers := rfl
@[simp] theorem State.respond_draws (s : State) (e : RspErr) (ev : RspEvent) (v : Word) :
    (s.respond e ev v).draws = s.draws := rfl
@[simp] theorem State.respond_presented (s : State) (e : RspErr) (ev : RspEvent) (v : Word) :
    (s.respond e ev v).presented = s.presented := rfl
@[simp] theorem State.respond_convOut (s : State) (e : RspErr) (ev : RspEvent) (v : Word) :
    (s.respond e ev v).convOut = s.convOut := rfl
@[simp] theorem State.respond_faults (s : State) (e : RspErr) (ev : RspEvent) (v : Word) :
    (s.respond e ev v).faults = s.faults := rfl

@[simp] theorem State.raise_cfg (s : State) (e : RspErr) :
    (s.raise e).cfg = s.cfg := rfl
@[simp] theorem State.raise_conn (s : State) (e : RspErr) :
    (s.raise e).conn = s.conn := rfl
@[simp] theorem State.raise_ph (s : State) (e : RspErr) :
    (s.raise e).ph = .idle := rfl
@[simp] theorem State.raise_opR (s : State) (e : RspErr) :
    (s.raise e).opR = s.opR := rfl
@[simp] theorem State.raise_valR (s : State) (e : RspErr) :
    (s.raise e).valR = s.valR := rfl
@[simp] theorem State.raise_cmdR (s : State) (e : RspErr) :
    (s.raise e).cmdR = s.cmdR := rfl
@[simp] theorem State.raise_k (s : State) (e : RspErr) :
    (s.raise e).k = s.k := rfl
@[simp] theorem State.raise_cwR (s : State) (e : RspErr) :
    (s.raise e).cwR = s.cwR := rfl
@[simp] theorem State.raise_rwR (s : State) (e : RspErr) :
    (s.raise e).rwR = s.rwR := rfl
@[simp] theorem State.raise_n (s : State) (e : RspErr) :
    (s.raise e).n = s.n := rfl
@[simp] theorem State.raise_loopReads (s : State) (e : RspErr) :
    (s.raise e).loopReads = s.loopReads := rfl
@[simp] theorem State.raise_ctrl (s : State) (e : RspErr) :
    (s.raise e).ctrl = s.ctrl := rfl
@[simp] theorem State.raise_buf (s : State) (e : RspErr) :
    (s.raise e).buf = s.buf := rfl
@[simp] theorem State.raise_rp (s : State) (e : RspErr) :
    (s.raise e).rp = s.rp := rfl
@[simp] theorem State.raise_rsp (s : State) (e : RspErr) :
    (s.raise e).rsp = some ⟨e, .noEvent, 0⟩ := rfl
@[simp] theorem State.raise_reqs (s : State) (e : RspErr) :
    (s.raise e).reqs = s.reqs := rfl
@[simp] theorem State.raise_rst (s : State) (e : RspErr) :
    (s.raise e).rst = s.rst := rfl
@[simp] theorem State.raise_answers (s : State) (e : RspErr) :
    (s.raise e).answers = s.answers := rfl
@[simp] theorem State.raise_draws (s : State) (e : RspErr) :
    (s.raise e).draws = s.draws := rfl
@[simp] theorem State.raise_presented (s : State) (e : RspErr) :
    (s.raise e).presented = s.presented := rfl
@[simp] theorem State.raise_convOut (s : State) (e : RspErr) :
    (s.raise e).convOut = s.convOut := rfl
@[simp] theorem State.raise_faults (s : State) (e : RspErr) :
    (s.raise e).faults = s.faults ++ e.faults := rfl

@[simp] theorem State.begin_cfg (s : State) (c : Command) :
    (s.begin c).cfg = s.cfg := rfl
@[simp] theorem State.begin_conn (s : State) (c : Command) :
    (s.begin c).conn = s.conn := rfl
@[simp] theorem State.begin_ph (s : State) (c : Command) :
    (s.begin c).ph = .clr := rfl
@[simp] theorem State.begin_opR (s : State) (c : Command) :
    (s.begin c).opR = s.opR := rfl
@[simp] theorem State.begin_valR (s : State) (c : Command) :
    (s.begin c).valR = s.valR := rfl
@[simp] theorem State.begin_cmdR (s : State) (c : Command) :
    (s.begin c).cmdR = c := rfl
@[simp] theorem State.begin_k (s : State) (c : Command) :
    (s.begin c).k = 0 := rfl
@[simp] theorem State.begin_cwR (s : State) (c : Command) :
    (s.begin c).cwR = s.cwR := rfl
@[simp] theorem State.begin_rwR (s : State) (c : Command) :
    (s.begin c).rwR = s.rwR := rfl
@[simp] theorem State.begin_n (s : State) (c : Command) :
    (s.begin c).n = s.n := rfl
@[simp] theorem State.begin_loopReads (s : State) (c : Command) :
    (s.begin c).loopReads = s.loopReads := rfl
@[simp] theorem State.begin_ctrl (s : State) (c : Command) :
    (s.begin c).ctrl = s.ctrl := rfl
@[simp] theorem State.begin_buf (s : State) (c : Command) :
    (s.begin c).buf = s.buf := rfl
@[simp] theorem State.begin_rp (s : State) (c : Command) :
    (s.begin c).rp = s.rp := rfl
@[simp] theorem State.begin_rsp (s : State) (c : Command) :
    (s.begin c).rsp = s.rsp := rfl
@[simp] theorem State.begin_reqs (s : State) (c : Command) :
    (s.begin c).reqs = s.reqs := rfl
@[simp] theorem State.begin_rst (s : State) (c : Command) :
    (s.begin c).rst = s.rst := rfl
@[simp] theorem State.begin_answers (s : State) (c : Command) :
    (s.begin c).answers = s.answers := rfl
@[simp] theorem State.begin_draws (s : State) (c : Command) :
    (s.begin c).draws = s.draws := rfl
@[simp] theorem State.begin_presented (s : State) (c : Command) :
    (s.begin c).presented = s.presented := rfl
@[simp] theorem State.begin_convOut (s : State) (c : Command) :
    (s.begin c).convOut = s.convOut := rfl
@[simp] theorem State.begin_faults (s : State) (c : Command) :
    (s.begin c).faults = s.faults := rfl

@[simp] theorem State.holdRequest_cfg (s : State) (w : HostReqWord) :
    (s.holdRequest w).cfg = s.cfg := rfl
@[simp] theorem State.holdRequest_conn (s : State) (w : HostReqWord) :
    (s.holdRequest w).conn = s.conn := rfl
@[simp] theorem State.holdRequest_ph (s : State) (w : HostReqWord) :
    (s.holdRequest w).ph = s.ph := rfl
@[simp] theorem State.holdRequest_opR (s : State) (w : HostReqWord) :
    (s.holdRequest w).opR = s.opR := rfl
@[simp] theorem State.holdRequest_valR (s : State) (w : HostReqWord) :
    (s.holdRequest w).valR = s.valR := rfl
@[simp] theorem State.holdRequest_cmdR (s : State) (w : HostReqWord) :
    (s.holdRequest w).cmdR = s.cmdR := rfl
@[simp] theorem State.holdRequest_k (s : State) (w : HostReqWord) :
    (s.holdRequest w).k = s.k := rfl
@[simp] theorem State.holdRequest_cwR (s : State) (w : HostReqWord) :
    (s.holdRequest w).cwR = s.cwR := rfl
@[simp] theorem State.holdRequest_rwR (s : State) (w : HostReqWord) :
    (s.holdRequest w).rwR = s.rwR := rfl
@[simp] theorem State.holdRequest_n (s : State) (w : HostReqWord) :
    (s.holdRequest w).n = s.n := rfl
@[simp] theorem State.holdRequest_loopReads (s : State) (w : HostReqWord) :
    (s.holdRequest w).loopReads = s.loopReads := rfl
@[simp] theorem State.holdRequest_ctrl (s : State) (w : HostReqWord) :
    (s.holdRequest w).ctrl = s.ctrl := rfl
@[simp] theorem State.holdRequest_buf (s : State) (w : HostReqWord) :
    (s.holdRequest w).buf = s.buf := rfl
@[simp] theorem State.holdRequest_rp (s : State) (w : HostReqWord) :
    (s.holdRequest w).rp = s.rp := rfl
@[simp] theorem State.holdRequest_rsp (s : State) (w : HostReqWord) :
    (s.holdRequest w).rsp = s.rsp := rfl
@[simp] theorem State.holdRequest_reqs (s : State) (w : HostReqWord) :
    (s.holdRequest w).reqs = w :: s.reqs := rfl
@[simp] theorem State.holdRequest_rst (s : State) (w : HostReqWord) :
    (s.holdRequest w).rst = s.rst := rfl
@[simp] theorem State.holdRequest_answers (s : State) (w : HostReqWord) :
    (s.holdRequest w).answers = s.answers := rfl
@[simp] theorem State.holdRequest_draws (s : State) (w : HostReqWord) :
    (s.holdRequest w).draws = s.draws := rfl
@[simp] theorem State.holdRequest_presented (s : State) (w : HostReqWord) :
    (s.holdRequest w).presented = s.presented := rfl
@[simp] theorem State.holdRequest_convOut (s : State) (w : HostReqWord) :
    (s.holdRequest w).convOut = s.convOut := rfl
@[simp] theorem State.holdRequest_faults (s : State) (w : HostReqWord) :
    (s.holdRequest w).faults = s.faults := rfl

@[simp] theorem State.applyReset_cfg (s : State) :
    (s.applyReset).cfg = s.cfg := rfl
@[simp] theorem State.applyReset_conn (s : State) :
    (s.applyReset).conn = .disconnected := rfl
@[simp] theorem State.applyReset_ph (s : State) :
    (s.applyReset).ph = .idle := rfl
@[simp] theorem State.applyReset_opR (s : State) :
    (s.applyReset).opR = .tick := rfl
@[simp] theorem State.applyReset_valR (s : State) :
    (s.applyReset).valR = 0 := rfl
@[simp] theorem State.applyReset_cmdR (s : State) :
    (s.applyReset).cmdR = .reset := rfl
@[simp] theorem State.applyReset_k (s : State) :
    (s.applyReset).k = 0 := rfl
@[simp] theorem State.applyReset_cwR (s : State) :
    (s.applyReset).cwR = 0 := rfl
@[simp] theorem State.applyReset_rwR (s : State) :
    (s.applyReset).rwR = 0 := rfl
@[simp] theorem State.applyReset_n (s : State) :
    (s.applyReset).n = 0 := rfl
@[simp] theorem State.applyReset_loopReads (s : State) :
    (s.applyReset).loopReads = 0 := rfl
@[simp] theorem State.applyReset_ctrl (s : State) :
    (s.applyReset).ctrl = s.ctrl := rfl
@[simp] theorem State.applyReset_buf (s : State) :
    (s.applyReset).buf = s.buf := rfl
@[simp] theorem State.applyReset_rp (s : State) :
    (s.applyReset).rp = none := rfl
@[simp] theorem State.applyReset_rsp (s : State) :
    (s.applyReset).rsp = none := rfl
@[simp] theorem State.applyReset_reqs (s : State) :
    (s.applyReset).reqs = s.reqs := rfl
@[simp] theorem State.applyReset_rst (s : State) :
    (s.applyReset).rst = false := rfl
@[simp] theorem State.applyReset_answers (s : State) :
    (s.applyReset).answers = s.answers := rfl
@[simp] theorem State.applyReset_draws (s : State) :
    (s.applyReset).draws = s.draws := rfl
@[simp] theorem State.applyReset_presented (s : State) :
    (s.applyReset).presented = s.presented := rfl
@[simp] theorem State.applyReset_convOut (s : State) :
    (s.applyReset).convOut = 0 := rfl
@[simp] theorem State.applyReset_faults (s : State) :
    (s.applyReset).faults = s.faults := rfl

@[simp] theorem writeBuffer_cfg (s : State) (i : BitVec 5) (v : Word) :
    (writeBuffer i v s).cfg = s.cfg := rfl
@[simp] theorem writeBuffer_conn (s : State) (i : BitVec 5) (v : Word) :
    (writeBuffer i v s).conn = s.conn := rfl
@[simp] theorem writeBuffer_ph (s : State) (i : BitVec 5) (v : Word) :
    (writeBuffer i v s).ph = s.ph := rfl
@[simp] theorem writeBuffer_opR (s : State) (i : BitVec 5) (v : Word) :
    (writeBuffer i v s).opR = s.opR := rfl
@[simp] theorem writeBuffer_valR (s : State) (i : BitVec 5) (v : Word) :
    (writeBuffer i v s).valR = s.valR := rfl
@[simp] theorem writeBuffer_cmdR (s : State) (i : BitVec 5) (v : Word) :
    (writeBuffer i v s).cmdR = s.cmdR := rfl
@[simp] theorem writeBuffer_k (s : State) (i : BitVec 5) (v : Word) :
    (writeBuffer i v s).k = s.k := rfl
@[simp] theorem writeBuffer_cwR (s : State) (i : BitVec 5) (v : Word) :
    (writeBuffer i v s).cwR = s.cwR := rfl
@[simp] theorem writeBuffer_rwR (s : State) (i : BitVec 5) (v : Word) :
    (writeBuffer i v s).rwR = s.rwR := rfl
@[simp] theorem writeBuffer_n (s : State) (i : BitVec 5) (v : Word) :
    (writeBuffer i v s).n = s.n := rfl
@[simp] theorem writeBuffer_loopReads (s : State) (i : BitVec 5) (v : Word) :
    (writeBuffer i v s).loopReads = s.loopReads := rfl
@[simp] theorem writeBuffer_ctrl (s : State) (i : BitVec 5) (v : Word) :
    (writeBuffer i v s).ctrl = s.ctrl := rfl
@[simp] theorem writeBuffer_buf (s : State) (i : BitVec 5) (v : Word) :
    (writeBuffer i v s).buf = Memory.storeWord s.cfg.laneOrder s.buf i.toNat v := rfl
@[simp] theorem writeBuffer_rp (s : State) (i : BitVec 5) (v : Word) :
    (writeBuffer i v s).rp = some (.writeBuffer i v) := rfl
@[simp] theorem writeBuffer_rsp (s : State) (i : BitVec 5) (v : Word) :
    (writeBuffer i v s).rsp = s.rsp := rfl
@[simp] theorem writeBuffer_reqs (s : State) (i : BitVec 5) (v : Word) :
    (writeBuffer i v s).reqs = s.reqs := rfl
@[simp] theorem writeBuffer_rst (s : State) (i : BitVec 5) (v : Word) :
    (writeBuffer i v s).rst = s.rst := rfl
@[simp] theorem writeBuffer_answers (s : State) (i : BitVec 5) (v : Word) :
    (writeBuffer i v s).answers = s.answers := rfl
@[simp] theorem writeBuffer_draws (s : State) (i : BitVec 5) (v : Word) :
    (writeBuffer i v s).draws = s.draws := rfl
@[simp] theorem writeBuffer_presented (s : State) (i : BitVec 5) (v : Word) :
    (writeBuffer i v s).presented = s.presented := rfl
@[simp] theorem writeBuffer_convOut (s : State) (i : BitVec 5) (v : Word) :
    (writeBuffer i v s).convOut = s.convOut := rfl
@[simp] theorem writeBuffer_faults (s : State) (i : BitVec 5) (v : Word) :
    (writeBuffer i v s).faults = s.faults := rfl

@[simp] theorem readBuffer_cfg (s : State) (i : BitVec 5) :
    (readBuffer i s).cfg = s.cfg := rfl
@[simp] theorem readBuffer_conn (s : State) (i : BitVec 5) :
    (readBuffer i s).conn = s.conn := rfl
@[simp] theorem readBuffer_ph (s : State) (i : BitVec 5) :
    (readBuffer i s).ph = s.ph := rfl
@[simp] theorem readBuffer_opR (s : State) (i : BitVec 5) :
    (readBuffer i s).opR = s.opR := rfl
@[simp] theorem readBuffer_valR (s : State) (i : BitVec 5) :
    (readBuffer i s).valR = s.valR := rfl
@[simp] theorem readBuffer_cmdR (s : State) (i : BitVec 5) :
    (readBuffer i s).cmdR = s.cmdR := rfl
@[simp] theorem readBuffer_k (s : State) (i : BitVec 5) :
    (readBuffer i s).k = s.k := rfl
@[simp] theorem readBuffer_cwR (s : State) (i : BitVec 5) :
    (readBuffer i s).cwR = s.cwR := rfl
@[simp] theorem readBuffer_rwR (s : State) (i : BitVec 5) :
    (readBuffer i s).rwR = s.rwR := rfl
@[simp] theorem readBuffer_n (s : State) (i : BitVec 5) :
    (readBuffer i s).n = s.n := rfl
@[simp] theorem readBuffer_loopReads (s : State) (i : BitVec 5) :
    (readBuffer i s).loopReads = s.loopReads := rfl
@[simp] theorem readBuffer_ctrl (s : State) (i : BitVec 5) :
    (readBuffer i s).ctrl = s.ctrl := rfl
@[simp] theorem readBuffer_buf (s : State) (i : BitVec 5) :
    (readBuffer i s).buf = s.buf := rfl
@[simp] theorem readBuffer_rp (s : State) (i : BitVec 5) :
    (readBuffer i s).rp = some (.readBuffer i s.nextAnswer) := rfl
@[simp] theorem readBuffer_rsp (s : State) (i : BitVec 5) :
    (readBuffer i s).rsp = s.rsp := rfl
@[simp] theorem readBuffer_reqs (s : State) (i : BitVec 5) :
    (readBuffer i s).reqs = s.reqs := rfl
@[simp] theorem readBuffer_rst (s : State) (i : BitVec 5) :
    (readBuffer i s).rst = s.rst := rfl
@[simp] theorem readBuffer_answers (s : State) (i : BitVec 5) :
    (readBuffer i s).answers = s.answers.tail := rfl
@[simp] theorem readBuffer_draws (s : State) (i : BitVec 5) :
    (readBuffer i s).draws = s.draws + 1 := rfl
@[simp] theorem readBuffer_presented (s : State) (i : BitVec 5) :
    (readBuffer i s).presented = s.presented := rfl
@[simp] theorem readBuffer_convOut (s : State) (i : BitVec 5) :
    (readBuffer i s).convOut = s.convOut := rfl
@[simp] theorem readBuffer_faults (s : State) (i : BitVec 5) :
    (readBuffer i s).faults = s.faults := rfl

end Sys2Proof.Machine
end

