-- ==== Sys2Proof/Laws/Ops.lean ====
section
/-! SUPPORT. One lemma per shared operation that says everything it can do. -/

namespace Sys2Proof.Machine

/-! ### Sequencing -/

@[simp] theorem andThen_next {α β : Type} (a : α) (f : α → Host.Outcome β Fault Refusal) :
    andThen (.next a) f = f a := rfl

/-- A step in two parts answers a next state only through a next state of its first part. -/
theorem andThen_eq_next {α β : Type} {x : Host.Outcome α Fault Refusal}
    {f : α → Host.Outcome β Fault Refusal} {b : β} (h : andThen x f = .next b) :
    ∃ a, x = .next a ∧ f a = .next b := by
  cases x with
  | next a => exact ⟨a, rfl, h⟩
  | fault r => cases h
  | refused r => cases h

/-! ### The register port -/

theorem writeControl_of_lt {index : BitVec 5} {s : State} (value : Word)
    (h : index.toNat < s.cfg.nctrl) :
    writeControl index value s =
      .next ((s.storeCtrl index.toNat value).access (.writeControl index value)) :=
  if_pos h

theorem writeControl_of_not_lt {index : BitVec 5} {s : State} (value : Word)
    (h : ¬ index.toNat < s.cfg.nctrl) : writeControl index value s = .refused .indexOutsideWindow :=
  if_neg h

theorem readControl_of_lt {index : BitVec 5} {s : State} (h : index.toNat < s.cfg.nctrl) :
    readControl index s =
      .next (s.nextAnswer, s.takeAnswer.access (.readControl index s.nextAnswer)) :=
  if_pos h

theorem readControl_of_not_lt {index : BitVec 5} {s : State} (h : ¬ index.toNat < s.cfg.nctrl) :
    readControl index s = .refused .indexOutsideWindow :=
  if_neg h

/-- What a well-formed configuration satisfies (R8, R9). -/
theorem wellFormed_iff (c : Cfg) : c.wellFormed = true ↔
    (1 ≤ c.nctrl ∧ c.nctrl ≤ 32) ∧
    (c.cwIndex.toNat < c.nctrl ∧ c.statusIndex.toNat < c.nctrl ∧
      c.errclrIndex.toNat < c.nctrl ∧ c.pollIndex.toNat < c.nctrl) ∧
    (∀ f ∈ c.fields, f.1 + f.2 ≤ 32) ∧
    c.fields.Pairwise fieldsDisjoint ∧
    (c.clrIdWords = 8 ∨ c.clrIdWords = 32) ∧
    (∀ m ∈ c.pollLimit, 1 ≤ m) := by
  simp only [Cfg.wellFormed, decide_eq_true_eq]

/-- The indices of a well-formed configuration lie in the window (R9, R53). -/
theorem wf_indices {c : Cfg} (h : c.wellFormed = true) :
    c.cwIndex.toNat < c.nctrl ∧ c.statusIndex.toNat < c.nctrl ∧
      c.errclrIndex.toNat < c.nctrl ∧ c.pollIndex.toNat < c.nctrl := ((wellFormed_iff c).1 h).2.1

theorem wf_clrIdWords {c : Cfg} (h : c.wellFormed = true) : c.clrIdWords = 8 ∨ c.clrIdWords = 32 :=
  ((wellFormed_iff c).1 h).2.2.2.2.1

theorem wf_pollLimit_pos {c : Cfg} (h : c.wellFormed = true) : ∀ m ∈ c.pollLimit, 1 ≤ m :=
  ((wellFormed_iff c).1 h).2.2.2.2.2

/-- Every command clears 8 or 32 words (R150). -/
theorem Command.nClr_cases {cfg : Cfg} (h : cfg.wellFormed = true) (c : Command) :
    c.nClr cfg = 8 ∨ c.nClr cfg = 32 := by
  cases c <;> simp [Command.nClr, wf_clrIdWords h]

/-! ### The record of fault outcomes -/

@[simp] theorem RspErr.faults_ok : RspErr.ok.faults = [] := rfl
@[simp] theorem RspErr.faults_notConnected : RspErr.notConnected.faults = [.notConnected] := rfl
@[simp] theorem RspErr.faults_busTimeout : RspErr.busTimeout.faults = [.busTimeout] := rfl

theorem writeControl_faults {index : BitVec 5} {value : Word} {s t : State}
    (h : writeControl index value s = .next t) : t.faults = s.faults := by
  unfold writeControl at h
  split at h <;> cases h
  rfl

theorem readControl_faults {index : BitVec 5} {r : Word} {s t : State}
    (h : readControl index s = .next (r, t)) : t.faults = s.faults := by
  unfold readControl at h
  split at h <;> cases h
  rfl

/-! ### The read count -/

/-- `startCount` sets both counts where they exist, and changes nothing else. -/
theorem State.startCount_eq (s : State) :
    s.startCount = { s with n := s.freshCount, loopReads := s.freshReads } := by
  unfold State.startCount State.freshCount State.freshReads
  cases h : s.cfg.pollLimit <;> simp

/-- A busy poll read counts itself, and raises BusTimeout when it is the last one allowed (R141, R145). -/
theorem State.pollAgain_of_lastPoll {s : State} (h : s.lastPoll) :
    s.pollAgain = { s with n := s.n + 1 }.raise .busTimeout := by
  simp only [State.lastPoll] at h
  simp [State.pollAgain, h]

theorem State.pollAgain_of_not_lastPoll {s : State} (h : ¬ s.lastPoll) :
    s.pollAgain = { s with n := s.countedBusy } := by
  simp only [State.lastPoll] at h
  unfold State.pollAgain State.countedBusy
  cases hl : s.cfg.pollLimit with
  | none => simp
  | some m =>
    have hm : s.n + 1 ≠ m := fun e => h (by rw [hl, e])
    simp [hm]

/-- `countRead` counts one more read of the loop where the count exists, and changes nothing else. -/
theorem State.countRead_eq (s : State) : s.countRead = { s with loopReads := s.countedReads } := by
  unfold State.countRead State.countedReads
  cases h : s.cfg.pollLimit <;> simp

theorem State.countedReads_none {s : State} (h : s.cfg.pollLimit = none) : s.countedReads = s.loopReads :=
  if_pos h

theorem State.countedReads_some {s : State} {m : Nat} (h : s.cfg.pollLimit = some m) :
    s.countedReads = s.loopReads + 1 := by
  simp [State.countedReads, h]

/-- The state after the read of a poll step under a well-formed configuration: the answer is taken, the access
stands on the port, and the read is counted. -/
def State.polled (s : State) : State :=
  { s.takeAnswer.access (.readControl s.cfg.pollIndex s.nextAnswer) with loopReads := s.countedReads }

theorem pollRead_eq {s : State} (h : s.cfg.wellFormed = true) :
    pollRead s = .next (s.nextAnswer, s.polled) := by
  simp only [pollRead, readControl_of_lt (wf_indices h).2.2.2, andThen_next, State.countRead_eq]
  rfl

theorem pollRead_faults {r : Word} {s t : State} (h : pollRead s = .next (r, t)) : t.faults = s.faults := by
  obtain ⟨⟨r', u⟩, hu, h⟩ := andThen_eq_next h
  have hf := readControl_faults hu
  cases h
  rw [State.countRead_eq]
  exact hf

/-! ### The phase steps under a well-formed configuration -/

theorem poll1Step_eq {s : State} (h : s.cfg.wellFormed = true) :
    poll1Step s = .next
      (if busy s.cfg s.nextAnswer then s.polled.pollAgain else { s.polled with ph := .arm }) := by
  simp only [poll1Step, pollRead_eq h, andThen_next]

theorem poll2Step_eq {s : State} (h : s.cfg.wellFormed = true) :
    poll2Step s = .next
      (if busy s.cfg s.nextAnswer then s.polled.pollAgain else s.polled.transferDone) := by
  simp only [poll2Step, pollRead_eq h, andThen_next]

theorem armStep_eq {s : State} (h : s.cfg.wellFormed = true) :
    armStep s = .next
      { (s.storeCtrl s.cfg.cwIndex.toNat s.cwR).access (.writeControl s.cfg.cwIndex s.cwR) with
        n := s.freshCount, loopReads := s.freshReads, ph := .poll2 } := by
  simp only [armStep, writeControl_of_lt _ (wf_indices h).1, andThen_next, State.startCount_eq]
  rfl

theorem errclrStep_eq {s : State} (h : s.cfg.wellFormed = true) :
    errclrStep s = .next
      { (s.storeCtrl s.cfg.errclrIndex.toNat s.cfg.errclrValue).access
          (.writeControl s.cfg.errclrIndex s.cfg.errclrValue) with ph := .enc } := by
  simp only [errclrStep, writeControl_of_lt _ (wf_indices h).2.2.1, andThen_next]

theorem execEncode_eq {s : State} (h : s.cfg.statusIndex.toNat < s.cfg.nctrl)
    (channel inputLen outputLen : Word) :
    execEncode channel inputLen outputLen s = .next
      { (s.storeCtrl s.cfg.statusIndex.toNat s.cfg.statusClearValue).access
          (.writeControl s.cfg.statusIndex s.cfg.statusClearValue) with
        cwR := encodeWord s.cfg channel inputLen outputLen } := by
  simp only [execEncode, writeControl_of_lt _ h, andThen_next]

theorem encStep_eq {s : State} (h : s.cfg.wellFormed = true) :
    encStep s = .next
      { (s.storeCtrl s.cfg.statusIndex.toNat s.cfg.statusClearValue).access
          (.writeControl s.cfg.statusIndex s.cfg.statusClearValue) with
        cwR := commandWord s.cfg s.cmdR, n := s.freshCount, loopReads := s.freshReads, ph := .poll1 } := by
  simp only [encStep, execEncode_eq (wf_indices h).2.1, andThen_next, State.startCount_eq]
  rfl

end Sys2Proof.Machine
end

