-- ==== Sys2Proof/Laws/ControlWord.lean ====
section
/-! SUPPORT. The control word bit by bit, for any configuration that is well formed. -/

namespace Sys2Proof.Machine

/-- A masked operand shifted into its field, bit by bit. -/
theorem getLsbD_field (x m : Word) (w p b : Nat) (hm : ∀ j, m.getLsbD j = decide (j < w))
    (hp : p + w ≤ 32) :
    ((x &&& m) <<< p).getLsbD b = (decide (p ≤ b ∧ b < p + w) && x.getLsbD (b - p)) := by
  rw [BitVec.getLsbD_shiftLeft, BitVec.getLsbD_and, hm]
  by_cases h1 : b < p
  · simp [h1, Nat.not_le.2 h1]
  · by_cases h2 : b - p < w
    · have h3 : b < 32 := by omega
      have h4 : p ≤ b ∧ b < p + w := by omega
      simp [h1, h2, h3, h4]
    · have h4 : ¬ (p ≤ b ∧ b < p + w) := by omega
      simp [h2, h4]

/-- A flag shifted into its place, bit by bit. -/
theorem getLsbD_flag (p b : Nat) (hp : p + 1 ≤ 32) :
    ((1 : Word) <<< p).getLsbD b = decide (b = p) := by
  rw [BitVec.getLsbD_shiftLeft]
  by_cases h : b = p
  · subst h
    have h1 : b < 32 := by omega
    simp [h1]
  · by_cases h1 : b < p
    · simp [h, h1]
    · have h2 : b - p ≠ 0 := by omega
      simp [h, BitVec.getLsbD_one, h2]

theorem getLsbD_three (j : Nat) : (0x3 : Word).getLsbD j = decide (j < 2) := by
  by_cases h : j < 32
  · interval_cases j <;> rfl
  · rw [BitVec.getLsbD_of_ge _ _ (by omega)]
    simp
    omega

theorem getLsbD_7F (j : Nat) : (0x7F : Word).getLsbD j = decide (j < 7) := by
  by_cases h : j < 32
  · interval_cases j <;> rfl
  · rw [BitVec.getLsbD_of_ge _ _ (by omega)]
    simp
    omega

/-- Every field of a well-formed configuration lies inside bits 31 to 0 (R9). -/
theorem wf_fields {c : Cfg} (h : c.wellFormed = true) :
    c.posChsel + 2 ≤ 32 ∧ c.posChen + 1 ≤ 32 ∧ c.posOutlen + 7 ≤ 32 ∧ c.posInlen + 7 ≤ 32 ∧
      c.posCmden + 1 ≤ 32 ∧ c.posChdup + 2 ≤ 32 ∧ c.posStart + 1 ≤ 32 := by
  simpa [Cfg.fields] using ((wellFormed_iff c).1 h).2.2.1

/-- Bit `b` of the control word (R130, R135): that of the field which covers it, and 0 where none does. -/
theorem getLsbD_encodeWord {c : Cfg} (h : c.wellFormed = true) (channel inputLen outputLen : Word)
    (b : Nat) :
    (encodeWord c channel inputLen outputLen).getLsbD b =
      ((decide (c.posChsel ≤ b ∧ b < c.posChsel + 2) && channel.getLsbD (b - c.posChsel)) ||
        decide (b = c.posChen) ||
        (decide (c.posOutlen ≤ b ∧ b < c.posOutlen + 7) && outputLen.getLsbD (b - c.posOutlen)) ||
        (decide (c.posInlen ≤ b ∧ b < c.posInlen + 7) && inputLen.getLsbD (b - c.posInlen)) ||
        decide (b = c.posCmden) ||
        (decide (c.posChdup ≤ b ∧ b < c.posChdup + 2) && channel.getLsbD (b - c.posChdup)) ||
        decide (b = c.posStart)) := by
  obtain ⟨h1, h2, h3, h4, h5, h6, h7⟩ := wf_fields h
  simp only [encodeWord, BitVec.getLsbD_or, maskChannel, maskLength]
  rw [getLsbD_field channel _ 2 _ b getLsbD_three h1, getLsbD_field channel _ 2 _ b getLsbD_three h6,
    getLsbD_field outputLen _ 7 _ b getLsbD_7F h3, getLsbD_field inputLen _ 7 _ b getLsbD_7F h4,
    getLsbD_flag _ _ h2, getLsbD_flag _ _ h5, getLsbD_flag _ _ h7]

end Sys2Proof.Machine
end

