-- ==== Sys2Proof/Laws/PerInstr.lean ====
section
/-! SUPPORT. Statements made once per operation. WidthAgrees: the packet of an operation has the width that the
opcode table gives its row. -/

namespace Sys2Proof.Laws.WidthAgrees

/-- The width column of the opcode table. -/
def tableWidth : Instr → Nat
  | .tick _ | .transact _ => 33
  | .jbReset | .jbPing | .jbRead => 8
  | .jbWrite _ => 40
  | .encode _ _ _ => 32
  | .execute | .swap32 _ | .swap16h _ => 0
  | .writeControl _ _ | .readControl _ _ | .writeBuffer _ _ | .readBuffer _ _ => 39

/-- The encoder lays the operation out in as many bits as the table gives its row, under every CFG. -/
def Statement (i : Instr) : Prop := ∀ c : Cfg, (encode c i).width = tableWidth i

theorem tick (v : Word) : Statement (.tick v) := fun _ => rfl
theorem transact (v : Word) : Statement (.transact v) := fun _ => rfl
theorem jbReset : Statement .jbReset := fun _ => rfl
theorem jbPing : Statement .jbPing := fun _ => rfl
theorem jbRead : Statement .jbRead := fun _ => rfl
theorem jbWrite (v : Word) : Statement (.jbWrite v) := fun _ => rfl
theorem encode (channel inputLen outputLen : Word) :
    Statement (.encode channel inputLen outputLen) := fun _ => rfl
theorem execute : Statement .execute := fun _ => rfl
theorem swap32 (x : Word) : Statement (.swap32 x) := fun _ => rfl
theorem swap16h (x : Word) : Statement (.swap16h x) := fun _ => rfl
theorem writeControl (index : BitVec 5) (value : Word) :
    Statement (.writeControl index value) := fun _ => rfl
theorem readControl (index : BitVec 5) (wdata : Word) :
    Statement (.readControl index wdata) := fun _ => rfl
theorem writeBuffer (index : BitVec 5) (value : Word) :
    Statement (.writeBuffer index value) := fun _ => rfl
theorem readBuffer (index : BitVec 5) (wdata : Word) :
    Statement (.readBuffer index wdata) := fun _ => rfl

end Sys2Proof.Laws.WidthAgrees
end

