-- ==== Sys2Proof/Laws/Step.lean ====
section
/-! SUPPORT. What a step can be: a reset edge, an idle step, the acceptance of a request, a step of the command
in progress, or a presented operation. -/

namespace Sys2Proof.Machine

theorem step_of_rst {s : State} (h : s.rst = true) : step s = .next s.applyReset := by
  simp [step, h]

/-- A step that answers a next state under an ill-formed configuration is a reset edge (U14). -/
theorem wellFormed_of_step {s t : State} (hr : s.rst = false) (h : step s = .next t) :
    s.cfg.wellFormed = true := by
  by_contra hc
  simp [step, hr, fetch, hc] at h

/-- The operation of the command in progress is the phase step (R22). -/
theorem exec_command {s : State} (h : s.ph ≠ .idle) :
    exec (s.cmdR.instr s.valR) s = phaseStep s := by
  cases hc : s.cmdR <;>
    simp [Command.instr, exec, execJbReset, execJbPing, execJbRead, execJbWrite, State.enter,
      State.enterWrite, h, hc]

theorem cmdR_instr_clearPorts (s : State) :
    s.cmdR.instr s.valR = s.clearPorts.cmdR.instr s.clearPorts.valR := rfl

/-- An own step of a busy block is the step of its phase. -/
theorem step_busy {s : State} (ho : s.ownStep) (hc : s.cfg.wellFormed = true) (h : s.ph ≠ .idle) :
    step s = phaseStep s.clearPorts := by
  have hf : fetch s = .ok (some (s.cmdR.instr s.valR, s.clearPorts)) := by
    unfold fetch
    rw [if_pos hc, ho.2]
    cases hp : s.ph <;> first | exact absurd hp h | rfl
  simp only [step, ho.1, hf]
  exact exec_command (s := s.clearPorts) h

/-- An own step of an idle block with no request changes nothing but the output ports (R170). -/
theorem step_idle_empty {s : State} (ho : s.ownStep) (hc : s.cfg.wellFormed = true) (h : s.ph = .idle)
    (hq : s.reqs = []) : step s = .next s.clearPorts := by
  simp [step, ho.1, fetch, hc, ho.2, h, hq]

/-- An own step of an idle block accepts the request on the port (R82, R170). -/
theorem step_idle_request {s : State} {w : HostReqWord} {rest : List HostReqWord}
    (ho : s.ownStep) (hc : s.cfg.wellFormed = true) (h : s.ph = .idle) (hq : s.reqs = w :: rest) :
    step s = exec (decodeHostReq w) { s.clearPorts with reqs := rest } := by
  simp [step, ho.1, fetch, hc, ho.2, h, hq]

/-! ### The rows of an own step -/

/-- Everything an own step can do: the rows of R22, each with the whole next state. -/
inductive OwnStep (s : State) : State → Prop where
  /-- IDLE without a request (R170) -/
  | wait : s.ph = .idle → s.reqs = [] → OwnStep s { s with rp := none, rsp := none }
  /-- a TICK is accepted (R170) -/
  | tick (w : HostReqWord) (rest : List HostReqWord) :
      s.ph = .idle → s.reqs = w :: rest → w.getLsbD 32 = false →
      OwnStep s { s with
        reqs := rest, rp := none, rsp := none, opR := .tick, cmdR := tickCommand s.conn, k := 0, ph := .clr }
  /-- a TRANSACT is accepted (R170) -/
  | transact (w : HostReqWord) (rest : List HostReqWord) :
      s.ph = .idle → s.reqs = w :: rest → w.getLsbD 32 = true → s.conn = .connected →
      OwnStep s { s with
        reqs := rest, rp := none, rsp := none, opR := .transact, valR := w.setWidth 32, cmdR := .write, k := 0,
        ph := .clr }
  /-- a TRANSACT raises NotConnected (R192) -/
  | notConnected (w : HostReqWord) (rest : List HostReqWord) :
      s.ph = .idle → s.reqs = w :: rest → w.getLsbD 32 = true → s.conn = .disconnected →
      OwnStep s { s with
        reqs := rest, rp := none, rsp := some ⟨.notConnected, .noEvent, 0⟩,
        faults := s.faults ++ [.notConnected] }
  /-- a word is cleared, and more follow (R152) -/
  | clearMore : s.ph = .clr → s.k.toNat + 1 ≠ s.cmdR.nClr s.cfg →
      OwnStep s { s with
        buf := Memory.storeWord s.cfg.laneOrder s.buf s.k.toNat 0, rp := some (.writeBuffer s.k 0), rsp := none,
        k := s.k + 1 }
  /-- the last word is cleared (R152) -/
  | clearLast : s.ph = .clr → s.k.toNat + 1 = s.cmdR.nClr s.cfg →
      OwnStep s { s with
        buf := Memory.storeWord s.cfg.laneOrder s.buf s.k.toNat 0, rp := some (.writeBuffer s.k 0), rsp := none,
        ph := .fill0 }
  /-- FILL0 (R153) -/
  | fill0 : s.ph = .fill0 →
      OwnStep s { s with
        buf := Memory.storeWord s.cfg.laneOrder s.buf 0 (word0 s.cfg s.cmdR s.valR),
        rp := some (.writeBuffer 0 (word0 s.cfg s.cmdR s.valR)), rsp := none, ph := afterFill0 s.cmdR }
  /-- FILL1 (R154) -/
  | fill1 : s.ph = .fill1 →
      OwnStep s { s with
        buf := Memory.storeWord s.cfg.laneOrder s.buf 1 (word1 s.cfg s.valR),
        rp := some (.writeBuffer 1 (word1 s.cfg s.valR)), rsp := none, ph := .errclr }
  /-- ERRCLR (R155) -/
  | errclr : s.ph = .errclr →
      OwnStep s { s with
        ctrl := Memory.storeWord ctrlLanes s.ctrl s.cfg.errclrIndex.toNat s.cfg.errclrValue,
        rp := some (.writeControl s.cfg.errclrIndex s.cfg.errclrValue), rsp := none, ph := .enc }
  /-- ENC (R156) -/
  | enc : s.ph = .enc →
      OwnStep s { s with
        ctrl := Memory.storeWord ctrlLanes s.ctrl s.cfg.statusIndex.toNat s.cfg.statusClearValue,
        rp := some (.writeControl s.cfg.statusIndex s.cfg.statusClearValue), rsp := none,
        cwR := commandWord s.cfg s.cmdR, n := s.freshCount, loopReads := s.freshReads, ph := .poll1 }
  /-- a poll read shows busy, and the loop goes on (R141, R143) -/
  | pollAgain : s.ph = .poll1 ∨ s.ph = .poll2 → s.seesBusy → ¬ s.lastPoll →
      OwnStep s { s with
        answers := s.answers.tail, draws := s.draws + 1,
        rp := some (.readControl s.cfg.pollIndex s.nextAnswer), rsp := none, n := s.countedBusy,
        loopReads := s.countedReads }
  /-- the last poll read allowed shows busy: BusTimeout (R193) -/
  | timeout : s.ph = .poll1 ∨ s.ph = .poll2 → s.seesBusy → s.lastPoll →
      OwnStep s { s with
        answers := s.answers.tail, draws := s.draws + 1,
        rp := some (.readControl s.cfg.pollIndex s.nextAnswer), n := s.n + 1,
        loopReads := s.countedReads,
        rsp := some ⟨.busTimeout, .noEvent, 0⟩, ph := .idle, faults := s.faults ++ [.busTimeout] }
  /-- POLL1 ends (R141) -/
  | poll1Done : s.ph = .poll1 → ¬ s.seesBusy →
      OwnStep s { s with
        answers := s.answers.tail, draws := s.draws + 1,
        rp := some (.readControl s.cfg.pollIndex s.nextAnswer), rsp := none, loopReads := s.countedReads,
        ph := .arm }
  /-- ARM (R142) -/
  | arm : s.ph = .arm →
      OwnStep s { s with
        ctrl := Memory.storeWord ctrlLanes s.ctrl s.cfg.cwIndex.toNat s.cwR,
        rp := some (.writeControl s.cfg.cwIndex s.cwR), rsp := none, n := s.freshCount, loopReads := s.freshReads, ph := .poll2 }
  /-- POLL2 ends the JB_WRITE of a TRANSACT, and its JB_READ begins (R143) -/
  | poll2Write : s.ph = .poll2 → ¬ s.seesBusy → s.cmdR = .write →
      OwnStep s { s with
        answers := s.answers.tail, draws := s.draws + 1,
        rp := some (.readControl s.cfg.pollIndex s.nextAnswer), rsp := none, loopReads := s.countedReads,
        cmdR := .read, k := 0, ph := .clr }
  /-- POLL2 ends any other command's transfer (R143) -/
  | poll2Done : s.ph = .poll2 → ¬ s.seesBusy → s.cmdR ≠ .write →
      OwnStep s { s with
        answers := s.answers.tail, draws := s.draws + 1,
        rp := some (.readControl s.cfg.pollIndex s.nextAnswer), rsp := none, loopReads := s.countedReads,
        ph := .resp }
  /-- RESP of JB_RESET (R171) -/
  | respReset : s.ph = .resp → s.cmdR = .reset →
      OwnStep s { s with
        answers := s.answers.tail, draws := s.draws + 1,
        rp := some (.readBuffer 0 s.nextAnswer), rwR := s.nextAnswer, ph := .idle,
        conn := if present s.nextAnswer then .connected else s.conn,
        rsp := some ⟨.ok, if present s.nextAnswer then .attached else .noEvent, 0⟩ }
  /-- RESP of JB_PING (R172) -/
  | respPing : s.ph = .resp → s.cmdR = .ping →
      OwnStep s { s with
        answers := s.answers.tail, draws := s.draws + 1,
        rp := some (.readBuffer 0 s.nextAnswer), rwR := s.nextAnswer, ph := .idle,
        conn := if present s.nextAnswer then s.conn else .disconnected,
        rsp := some ⟨.ok, if present s.nextAnswer then .noEvent else .detached, 0⟩ }
  /-- RESP of JB_READ (R175) -/
  | respRead : s.ph = .resp → s.cmdR = .read →
      OwnStep s { s with
        answers := s.answers.tail, draws := s.draws + 1,
        rp := some (.readBuffer 0 s.nextAnswer), rwR := s.nextAnswer, ph := .idle,
        rsp := some ⟨.ok, .noEvent, swap32 s.nextAnswer⟩ }

theorem nextAnswer_clearPorts (s : State) : s.clearPorts.nextAnswer = s.nextAnswer := rfl

/-- The read of a poll step as it leaves the state of an own step. -/
theorem polled_clearPorts (s : State) : s.clearPorts.polled =
    { s with
      answers := s.answers.tail, draws := s.draws + 1, rp := some (.readControl s.cfg.pollIndex s.nextAnswer),
      rsp := none, loopReads := s.countedReads } := rfl

theorem ownStep_of_poll {s : State} (hp : s.ph = .poll1 ∨ s.ph = .poll2) (hb : s.seesBusy) :
    OwnStep s s.clearPorts.polled.pollAgain := by
  rw [polled_clearPorts]
  by_cases hl : s.lastPoll
  · rw [State.pollAgain_of_lastPoll (by exact hl)]
    exact .timeout hp hb hl
  · rw [State.pollAgain_of_not_lastPoll (by exact hl)]
    exact .pollAgain hp hb hl

theorem ownStep_of_poll1 {s t : State} (hc : s.cfg.wellFormed = true) (hp : s.ph = .poll1)
    (h : poll1Step s.clearPorts = .next t) : OwnStep s t := by
  rw [poll1Step_eq (by exact hc)] at h
  cases h
  split
  · rename_i hb; exact ownStep_of_poll (.inl hp) hb
  · rename_i hb
    rw [polled_clearPorts]
    exact .poll1Done hp hb

theorem ownStep_of_poll2 {s t : State} (hc : s.cfg.wellFormed = true) (hp : s.ph = .poll2)
    (h : poll2Step s.clearPorts = .next t) : OwnStep s t := by
  rw [poll2Step_eq (by exact hc)] at h
  cases h
  split
  · rename_i hb; exact ownStep_of_poll (.inr hp) hb
  · rename_i hb
    rw [polled_clearPorts]
    unfold State.transferDone
    split
    · rename_i hw; exact .poll2Write hp hb hw
    · rename_i hw; exact .poll2Done hp hb hw

theorem ownStep_of_resp {s t : State} (hp : s.ph = .resp) (h : respStep s.clearPorts = .next t) :
    OwnStep s t := by
  unfold respStep at h
  cases hm : s.cmdR <;> simp only [State.clearPorts_cmdR, hm] at h <;> cases h
  · have := OwnStep.respReset hp hm
    rw [nextAnswer_clearPorts, finishTickDisconnected]
    cases hc : present s.nextAnswer <;> simp only [hc, Bool.false_eq_true, if_false, if_true] at this ⊢ <;>
      exact this
  · have := OwnStep.respPing hp hm
    rw [nextAnswer_clearPorts, finishTickConnected]
    cases hc : present s.nextAnswer <;> simp only [hc, Bool.false_eq_true, if_false, if_true] at this ⊢ <;>
      exact this
  · exact .respRead hp hm

theorem ownStep_of_errclr {s t : State} (hc : s.cfg.wellFormed = true) (hp : s.ph = .errclr)
    (h : errclrStep s.clearPorts = .next t) : OwnStep s t := by
  rw [errclrStep_eq (by exact hc)] at h
  cases h
  exact .errclr hp

theorem ownStep_of_enc {s t : State} (hc : s.cfg.wellFormed = true) (hp : s.ph = .enc)
    (h : encStep s.clearPorts = .next t) : OwnStep s t := by
  rw [encStep_eq (by exact hc)] at h
  cases h
  exact .enc hp

theorem ownStep_of_arm {s t : State} (hc : s.cfg.wellFormed = true) (hp : s.ph = .arm)
    (h : armStep s.clearPorts = .next t) : OwnStep s t := by
  rw [armStep_eq (by exact hc)] at h
  cases h
  exact .arm hp

/-- A request accepted by an idle block (R170). -/
theorem ownStep_of_request {s t : State} {w : HostReqWord} {rest : List HostReqWord} (hp : s.ph = .idle)
    (hq : s.reqs = w :: rest) (h : exec (decodeHostReq w) { s.clearPorts with reqs := rest } = .next t) :
    OwnStep s t := by
  unfold decodeHostReq at h
  cases hw : w.getLsbD 32
  · simp only [hw, exec, execTick, State.clearPorts_ph, hp, Bool.false_eq_true, if_false] at h
    cases h
    exact .tick w rest hp hq hw
  · cases hn : s.conn <;>
      simp only [hw, exec, execTransact, State.clearPorts_ph, State.clearPorts_conn, hp, hn, if_true] at h <;>
      cases h
    · have := OwnStep.notConnected w rest hp hq hw hn
      exact (by simpa [State.raise, State.respond, State.clearPorts, hp, hn] using this)
    · have := OwnStep.transact w rest hp hq hw hn
      exact (by simpa [State.begin, State.clearPorts, hp, hn] using this)

/-- An own step that answers a next state is one of the rows. -/
theorem ownStep_of_step {s t : State} (ho : s.ownStep) (h : step s = .next t) :
    s.cfg.wellFormed = true ∧ OwnStep s t := by
  have hc := wellFormed_of_step ho.1 h
  refine ⟨hc, ?_⟩
  cases hp : s.ph
  case idle =>
    cases hq : s.reqs with
    | nil =>
      rw [step_idle_empty ho hc hp hq] at h
      cases h
      exact .wait hp hq
    | cons w rest =>
      rw [step_idle_request ho hc hp hq] at h
      exact ownStep_of_request hp hq h
  all_goals
    rw [step_busy ho hc (by simp [hp])] at h
    simp only [phaseStep, State.clearPorts_ph, hp] at h
  case clr =>
    cases h
    unfold clrStep
    split
    · rename_i hk; exact .clearLast hp hk
    · rename_i hk; exact .clearMore hp hk
  case fill0 => cases h; exact .fill0 hp
  case fill1 => cases h; exact .fill1 hp
  case errclr => exact ownStep_of_errclr hc hp h
  case enc => exact ownStep_of_enc hc hp h
  case arm => exact ownStep_of_arm hc hp h
  case poll1 => exact ownStep_of_poll1 hc hp h
  case poll2 => exact ownStep_of_poll2 hc hp h
  case resp => exact ownStep_of_resp hp h

/-- At most one row applies. -/
theorem ownStep_det {s t u : State} (h : OwnStep s t) (h' : OwnStep s u) : t = u := by
  cases h <;> cases h' <;> simp_all

/-- Each row is a step: where its condition holds, the step answers its next state. -/
theorem step_of_ownStep {s t : State} (ho : s.ownStep) (hc : s.cfg.wellFormed = true) (h : OwnStep s t) :
    step s = .next t := by
  have hx : ∃ u, step s = .next u := by
    cases hp : s.ph
    case idle =>
      cases hq : s.reqs with
      | nil => exact ⟨_, step_idle_empty ho hc hp hq⟩
      | cons w rest =>
        rw [step_idle_request ho hc hp hq]
        unfold decodeHostReq
        cases hw : w.getLsbD 32 <;> cases hn : s.conn <;>
          simp [exec, execTick, execTransact, hp, hn]
    all_goals
      rw [step_busy ho hc (by simp [hp])]
      simp only [phaseStep, State.clearPorts_ph, hp]
    case clr => exact ⟨_, rfl⟩
    case fill0 => exact ⟨_, rfl⟩
    case fill1 => exact ⟨_, rfl⟩
    case errclr => exact ⟨_, errclrStep_eq (by exact hc)⟩
    case enc => exact ⟨_, encStep_eq (by exact hc)⟩
    case arm => exact ⟨_, armStep_eq (by exact hc)⟩
    case poll1 => exact ⟨_, poll1Step_eq (by exact hc)⟩
    case poll2 => exact ⟨_, poll2Step_eq (by exact hc)⟩
    case resp =>
      have hw : s.cmdR ≠ .write := by
        cases h <;> simp_all
      unfold respStep
      cases hm : s.cmdR <;> simp_all
  obtain ⟨u, hu⟩ := hx
  rw [hu, ownStep_det h (ownStep_of_step ho hu).2]

/-! ### The record of fault outcomes -/

/-- The record of one state begins with that of the other. -/
def State.KeepsFaults (s t : State) : Prop := ∃ more, t.faults = s.faults ++ more

theorem State.KeepsFaults.of_eq {s t : State} (h : t.faults = s.faults) : s.KeepsFaults t :=
  ⟨[], by simp [h]⟩

theorem execEncode_faults {a b c : Word} {s t : State} (h : execEncode a b c s = .next t) :
    t.faults = s.faults := by
  obtain ⟨u, hu, h⟩ := andThen_eq_next h
  have hf := writeControl_faults hu
  cases h
  exact hf

theorem State.pollAgain_keepsFaults (s : State) : s.KeepsFaults s.pollAgain := by
  by_cases hl : s.lastPoll
  · rw [State.pollAgain_of_lastPoll hl]
    exact ⟨_, rfl⟩
  · rw [State.pollAgain_of_not_lastPoll hl]
    exact .of_eq rfl

theorem poll1Step_keepsFaults {s t : State} (h : poll1Step s = .next t) : s.KeepsFaults t := by
  obtain ⟨⟨r, u⟩, hu, h⟩ := andThen_eq_next h
  have hf := pollRead_faults hu
  cases h
  split
  · simpa only [State.KeepsFaults, hf] using State.pollAgain_keepsFaults u
  · exact .of_eq hf

theorem poll2Step_keepsFaults {s t : State} (h : poll2Step s = .next t) : s.KeepsFaults t := by
  obtain ⟨⟨r, u⟩, hu, h⟩ := andThen_eq_next h
  have hf := pollRead_faults hu
  cases h
  split
  · simpa only [State.KeepsFaults, hf] using State.pollAgain_keepsFaults u
  · refine .of_eq ?_
    unfold State.transferDone
    split <;> exact hf

theorem phaseStep_keepsFaults {s t : State} (h : phaseStep s = .next t) : s.KeepsFaults t := by
  cases hp : s.ph <;> simp only [phaseStep, hp] at h
  case idle => cases h; exact .of_eq rfl
  case clr => cases h; unfold clrStep; split <;> exact .of_eq rfl
  case fill0 => cases h; exact .of_eq rfl
  case fill1 => cases h; exact .of_eq rfl
  case errclr =>
    obtain ⟨u, hu, h⟩ := andThen_eq_next h
    have hf := writeControl_faults hu
    cases h
    exact .of_eq hf
  case enc =>
    obtain ⟨u, hu, h⟩ := andThen_eq_next h
    have hf := execEncode_faults hu
    cases h
    exact .of_eq (by rw [State.startCount_eq]; exact hf)
  case poll1 => exact poll1Step_keepsFaults h
  case arm =>
    obtain ⟨u, hu, h⟩ := andThen_eq_next h
    have hf := writeControl_faults hu
    cases h
    exact .of_eq (by rw [State.startCount_eq]; exact hf)
  case poll2 => exact poll2Step_keepsFaults h
  case resp =>
    unfold respStep at h
    cases hm : s.cmdR <;> simp only [hm] at h <;> cases h
    · unfold finishTickDisconnected; split <;> exact .of_eq rfl
    · unfold finishTickConnected; split <;> exact .of_eq rfl
    · exact .of_eq rfl

theorem exec_keepsFaults {i : Instr} {s t : State} (h : exec i s = .next t) : s.KeepsFaults t := by
  have he (c : Command) (h : phaseStep (s.enter c) = .next t) : s.KeepsFaults t := by
    have hk := phaseStep_keepsFaults h
    unfold State.enter at hk
    split at hk <;> exact hk
  cases i <;> simp only [exec] at h
  case tick v =>
    unfold execTick at h
    split at h <;> cases h <;> exact .of_eq rfl
  case transact v =>
    unfold execTransact at h
    cases hp : s.ph <;> cases hn : s.conn <;> simp only [hp, hn] at h <;> cases h <;>
      first | exact .of_eq rfl | exact ⟨_, rfl⟩
  case jbReset => exact he _ h
  case jbPing => exact he _ h
  case jbRead => exact he _ h
  case jbWrite v =>
    have hk := phaseStep_keepsFaults h
    unfold State.enterWrite at hk
    split at hk <;> exact hk
  case encode => exact .of_eq (execEncode_faults h)
  case execute =>
    unfold execExecute at h
    rw [State.startCount_eq] at h
    split at h
    · exact poll1Step_keepsFaults h
    · obtain ⟨u, hu, h⟩ := andThen_eq_next h
      have hf := writeControl_faults hu
      cases h
      exact .of_eq (by rw [State.startCount_eq]; exact hf)
    · exact poll2Step_keepsFaults h
    all_goals exact (poll1Step_keepsFaults h :)
  case swap32 => cases h; exact .of_eq rfl
  case swap16h => cases h; exact .of_eq rfl
  case writeControl => exact .of_eq (writeControl_faults h)
  case readControl =>
    obtain ⟨⟨r, u⟩, hu, h⟩ := andThen_eq_next h
    have hf := readControl_faults hu
    cases h
    exact .of_eq hf
  case writeBuffer => cases h; exact .of_eq rfl
  case readBuffer => cases h; exact .of_eq rfl

theorem fetch_faults {s u : State} {i : Instr} (h : fetch s = .ok (some (i, u))) : u.faults = s.faults := by
  unfold fetch at h
  repeat' split at h
  all_goals cases h
  all_goals rfl

/-- No step, in any state, takes a fault outcome off the record (R176). -/
theorem step_keepsFaults {s t : State} (h : step s = .next t) : s.KeepsFaults t := by
  unfold step at h
  split at h
  · cases h
    exact .of_eq rfl
  · split at h
    · cases h
    · cases h
      exact .of_eq rfl
    · rename_i i u hf
      simpa only [State.KeepsFaults, fetch_faults hf] using exec_keepsFaults h

/-! ### Runs -/

/-- A run of one step more. -/
theorem run_succ {s u : State} (n : Nat) (h : step s = .next u) : core.run (n + 1) s = core.run n u := by
  have h' : core.step s = .next u := h
  simp only [Host.Core.run, h']

/-- A run in two parts. -/
theorem run_add {s u : State} (m n : Nat) (h : core.run m s = .next u) :
    core.run (m + n) s = core.run n u := by
  induction m generalizing s with
  | zero => cases h; rw [Nat.zero_add]
  | succ m ih =>
    rw [Nat.succ_add]
    simp only [Host.Core.run] at h ⊢
    split at h
    · exact ih h
    · cases h
    · cases h

end Sys2Proof.Machine
end

