-- ==== Sys2Proof/Tests/Slice0.lean ====
section
/-! SUPPORT. The model's own tests: ill-formed terms that the checks refuse, words written out from the spec's
formats, one-step vectors taken from 95_test_vectors.md and the rules, and for every statement with hypotheses
a concrete state that meets them. -/

namespace Sys2Proof.Tests

open Sys2Proof Sys2Proof.Machine

/-! ### Helpers -/

/-- The outcome is a next state with the property. -/
def nextSat (o : Host.Outcome State Fault Refusal) (p : State → Bool) : Bool :=
  match o with
  | .next t => p t
  | .fault _ => false
  | .refused _ => false

/-- The outcome is this refusal. -/
def refusedWith (o : Host.Outcome State Fault Refusal) (r : Refusal) : Bool :=
  match o with
  | .next _ => false
  | .fault _ => false
  | .refused r' => r' == r

/-- The decoder answers this operation. -/
def decodesTo (c : Cfg) (p : Packet) (i : Instr) : Bool :=
  match decode c p with
  | .ok j => j == i
  | .error _ => false

/-- The decoder refuses with this error. -/
def decodeFails (c : Cfg) (p : Packet) (e : DecodeError) : Bool :=
  match decode c p with
  | .ok _ => false
  | .error e' => e' == e

/-- The block serving a command in a phase: a tick for the identify commands, else a TRANSACT of 0x11223344. -/
def serving (ph : Phase) (cmd : Command) : State :=
  { State.reset with
    ph := ph, cmdR := cmd, valR := 0x11223344, cwR := commandWord Cfg.ref cmd
    conn := match cmd with | .reset => .disconnected | .ping | .read | .write => .connected
    opR := match cmd with | .reset | .ping => .tick | .read | .write => .transact }

/-- CFG_REF with the other lane order, the short clear and a poll bound. -/
def otherCfg : Cfg :=
  { Cfg.ref with laneOrder := .lsbFirst, clrIdWords := 8, pollLimit := some 2 }

/-- The alternative layout of example E3. -/
def layoutE3 : Cfg :=
  { Cfg.ref with
    posChsel := 0, posChen := 2, posOutlen := 3, posInlen := 10, posCmden := 17, posChdup := 18,
    posStart := 31 }

/-! ### Well-formedness refuses what it should -/

theorem test_wf_ref : Cfg.ref.wellFormed = true := by decide
theorem test_wf_other : otherCfg.wellFormed = true := by decide
theorem test_wf_layoutE3 : layoutE3.wellFormed = true := by decide
theorem test_wf_nctrl_zero : { Cfg.ref with nctrl := 0 }.wellFormed = false := by decide
theorem test_wf_nctrl_large : { Cfg.ref with nctrl := 33 }.wellFormed = false := by decide
theorem test_wf_cw_index : { Cfg.ref with cwIndex := 16 }.wellFormed = false := by decide
theorem test_wf_status_index : { Cfg.ref with statusIndex := 16 }.wellFormed = false := by decide
theorem test_wf_errclr_index : { Cfg.ref with errclrIndex := 16 }.wellFormed = false := by decide
theorem test_wf_poll_index : { Cfg.ref with pollIndex := 16 }.wellFormed = false := by decide
theorem test_wf_field_outside : { Cfg.ref with posChsel := 31 }.wellFormed = false := by decide
theorem test_wf_fields_overlap : { Cfg.ref with posChen := 26 }.wellFormed = false := by decide
theorem test_wf_clr_words : { Cfg.ref with clrIdWords := 16 }.wellFormed = false := by decide
theorem test_wf_poll_limit : { Cfg.ref with pollLimit := some 0 }.wellFormed = false := by decide
theorem test_wf_encode_channel : Instr.wellFormed Cfg.ref (.encode 4 0 0) = false := by decide
theorem test_wf_encode_input : Instr.wellFormed Cfg.ref (.encode 0 128 0) = false := by decide
theorem test_wf_encode_output : Instr.wellFormed Cfg.ref (.encode 0 0 128) = false := by decide
theorem test_wf_write_control : Instr.wellFormed Cfg.ref (.writeControl 16 0) = false := by decide
theorem test_wf_read_control : Instr.wellFormed Cfg.ref (.readControl 16 0) = false := by decide

/-! ### Decoding: a word per operation, written out from the formats of 30_encoding.md -/

-- R81: bit 32 = 0, any value
theorem test_decode_tick : decodesTo Cfg.ref (.hostReq 0x0DEADBEEF) (.tick 0xDEADBEEF) = true := by decide
-- R81: bit 32 = 1, then the Link Value 1024 (95_test_vectors.md)
theorem test_decode_transact : decodesTo Cfg.ref (.hostReq 0x100000400) (.transact 1024) = true := by decide
-- R88: 11111111
theorem test_decode_jb_reset : decodesTo Cfg.ref (.frame [0b11111111]) .jbReset = true := by decide
-- R88: 00000000
theorem test_decode_jb_ping : decodesTo Cfg.ref (.frame [0b00000000]) .jbPing = true := by decide
-- R88: 00010100
theorem test_decode_jb_read : decodesTo Cfg.ref (.frame [0b00010100]) .jbRead = true := by decide
-- R88: 00010101 and the payload, most significant byte first
theorem test_decode_jb_write :
    decodesTo Cfg.ref (.frame [0b00010101, 0x11, 0x22, 0x33, 0x44]) (.jbWrite 0x11223344) = true := by
  decide
-- R87: 00000 01 1 0 0000001 0 0000011 1 0000 01 1
theorem test_decode_encode :
    decodesTo Cfg.ref (.controlWord 0b00000011000000010000001110000011) (.encode 1 3 1) = true := by
  decide
-- E3's layout: the control word of (1, 3, 1) (95_test_vectors.md section 2.3)
theorem test_decode_encode_layoutE3 :
    decodesTo layoutE3 (.controlWord 0x80060C0D) (.encode 1 3 1) = true := by decide
theorem test_decode_execute : decodesTo Cfg.ref .execute .execute = true := by decide
theorem test_decode_swap32 : decodesTo Cfg.ref (.swap32 7) (.swap32 7) = true := by decide
theorem test_decode_swap16h : decodesTo Cfg.ref (.swap16h 7) (.swap16h 7) = true := by decide
-- R85: 0 1 01110 and the word (95_test_vectors.md: write_control(14, 0x80000000))
theorem test_decode_write_control :
    decodesTo Cfg.ref (.regPort 0x2E80000000) (.writeControl 14 0x80000000) = true := by decide
-- R85: 0 0 01101 (95_test_vectors.md: read_control(13))
theorem test_decode_read_control :
    decodesTo Cfg.ref (.regPort 0x0D00000000) (.readControl 13 0) = true := by decide
-- R85: 1 1 00001 and the word (95_test_vectors.md: write_buffer(1, 0x44000000))
theorem test_decode_write_buffer :
    decodesTo Cfg.ref (.regPort 0x6144000000) (.writeBuffer 1 0x44000000) = true := by decide
-- R85: 1 0 00000 (95_test_vectors.md: read_buffer(0))
theorem test_decode_read_buffer :
    decodesTo Cfg.ref (.regPort 0x4000000000) (.readBuffer 0 0) = true := by decide

-- R95, R97, R87, R85: what names no operation
theorem test_decode_unknown_header :
    decodeFails Cfg.ref (.frame [0x13]) (.unknownHeader 0x13) = true := by decide
theorem test_decode_short_write : decodeFails Cfg.ref (.frame [0x15, 1, 2, 3]) .truncatedFrame = true := by
  decide
theorem test_decode_trailing : decodeFails Cfg.ref (.frame [0x14, 0]) .trailingBytes = true := by decide
theorem test_decode_empty : decodeFails Cfg.ref (.frame []) .emptyFrame = true := by decide
theorem test_decode_not_mirrored :
    decodeFails Cfg.ref (.controlWord 0x03010381) .channelNotMirrored = true := by decide
theorem test_decode_start_clear :
    decodeFails Cfg.ref (.controlWord 0x03010382) .controlWordBits = true := by decide
theorem test_decode_ctrl_index :
    decodeFails Cfg.ref (.regPort 0x3000000000) .indexOutsideWindow = true := by decide

/-! ### The table's words, and their first step after reset -/

theorem test_table_reset : decodeTableWord 8 0xFF = some .jbReset := by decide
theorem test_table_encode : decodeTableWord 32 0x01000081 = some (.encode 0 0 0) := by decide
theorem test_table_write : decodeTableWord 40 0x1500000400 = some (.jbWrite 1024) := by decide
theorem test_table_transact : decodeTableWord 40 0x100000007 = some (.transact 7) := by decide
theorem test_table_write_control :
    decodeTableWord 40 0x2D03010383 = some (.writeControl 13 0x03010383) := by decide
theorem test_table_zero_width : decodeTableWord 0 0 = none := by decide

-- R152: the first step of JB_RESET zeroes BUF[0]
theorem test_first_step_reset : nextSat (step (State.reset.withFetchWord 8 0xFF)) (fun t =>
    t.ph == .clr && t.cmdR == .reset && t.k == 1 && t.rp == some (.writeBuffer 0 0)) = true := by decide
-- R130, R131 under CFG_REF
theorem test_first_step_encode : nextSat (step (State.reset.withFetchWord 32 0x01000081)) (fun t =>
    t.cwR == 0x01000081 && t.rp == some (.writeControl 14 0x80000000)) = true := by decide
-- R170, R222: the first tick begins JB_RESET
theorem test_first_step_tick : nextSat (step (State.reset.withFetchWord 33 0)) (fun t =>
    t.ph == .clr && t.cmdR == .reset && t.rp == none) = true := by decide
-- R95: a header that is none of the four
theorem test_first_step_unknown :
    refusedWith (step (State.reset.withFetchWord 8 0x13)) (.undecodable (.unknownHeader 0x13)) = true := by
  decide

/-! ### One-step vectors -/

-- 95_test_vectors.md 2.2
theorem test_swap32 : nextSat (exec (.swap32 0xDEADBEEF) State.reset)
    (fun t => t.convOut == 0xEFBEADDE) = true := by decide
theorem test_swap16h : nextSat (exec (.swap16h 0xDEADBEEF) State.reset)
    (fun t => t.convOut == 0xBEEFDEAD) = true := by decide
-- 95_test_vectors.md 2.3: masked operands, and E3's other layout
theorem test_encode_masks : nextSat (exec (.encode 7 200 200) State.reset)
    (fun t => t.cwR == 0x07484887 && t.ctrlWord 14 == some 0x80000000) = true := by decide
theorem test_encode_layoutE3 : nextSat (exec (.encode 7 200 200) { State.reset with cfg := layoutE3 })
    (fun t => t.cwR == 0x800F2247) = true := by decide
-- R110 example
theorem test_write_control : nextSat (exec (.writeControl 13 0x03010383) State.reset)
    (fun t => t.ctrlWord 13 == some 0x03010383 && t.ctrlWord 12 == none) = true := by decide
-- R112, R55: lsb_first puts bits 7:0 on wire byte 0
theorem test_write_buffer_lsb :
    nextSat (exec (.writeBuffer 31 0x33221115) { State.reset with cfg := otherCfg })
      (fun t => t.wireByte 124 == some 0x15 && t.wireByte 127 == some 0x33) = true := by decide
-- R111: 0xFFFFFFFE is not what the block wrote, it is what the controller presents
theorem test_read_control : nextSat (exec (.readControl 13 0) { State.reset with answers := [0xFFFFFFFE] })
    (fun t => t.rp == some (.readControl 13 0xFFFFFFFE) && t.answers == []) = true := by decide
theorem test_read_buffer : nextSat (exec (.readBuffer 0 0) { State.reset with answers := [5, 6] })
    (fun t => t.rp == some (.readBuffer 0 5) && t.answers == [6]) = true := by decide
-- 95_test_vectors.md 2.1: only bit 0 counts under CFG_REF
theorem test_poll_not_busy :
    nextSat (exec .execute { serving .poll1 .reset with answers := [0xFFFFFFFE] })
      (fun t => t.ph == .arm) = true := by decide
theorem test_poll2_write_hands_over :
    nextSat (exec .execute { serving .poll2 .write with answers := [0x03050182], k := 31 })
      (fun t => t.ph == .clr && t.cmdR == .read && t.k == 0) = true := by decide
-- R30, R141: the read that ends a loop is a read of the loop, and leaves `n`
theorem test_poll_ends_counts :
    nextSat (exec .execute { serving .poll1 .ping with cfg := otherCfg, n := 1, loopReads := 1, answers := [0] })
      (fun t => t.ph == .arm && t.n == 1 && t.loopReads == 2) = true := by decide
-- 95_test_vectors.md 2.4: the second busy read of two raises BusTimeout, and P5: `n` = 2 is kept
theorem test_poll_timeout :
    nextSat (exec .execute { serving .poll2 .ping with cfg := otherCfg, n := 1, answers := [1] })
      (fun t => t.ph == .idle && t.n == 2 && t.conn == .connected &&
        t.rsp == some ⟨.busTimeout, .noEvent, 0⟩) = true := by decide
-- 95_test_vectors.md 2.5: the words of JB_RESET and JB_READ under both orders
theorem test_jb_reset_fill : nextSat (exec .jbReset (serving .fill0 .reset))
    (fun t => t.bufWord 0 == some 0xFF000000 && t.ph == .enc) = true := by decide
theorem test_jb_read_fill : nextSat (exec .jbRead { serving .fill0 .read with cfg := otherCfg })
    (fun t => t.rp == some (.writeBuffer 0 0x00000014) && t.ph == .errclr) = true := by decide
-- 95_test_vectors.md 2.5: JB_WRITE of 0x11223344 under both orders
theorem test_jb_write_fill0 : nextSat (exec (.jbWrite 0x11223344) (serving .fill0 .write))
    (fun t => t.rp == some (.writeBuffer 0 0x15112233) && t.ph == .fill1) = true := by decide
theorem test_jb_write_fill1_lsb :
    nextSat (exec (.jbWrite 0x11223344) { serving .fill1 .write with cfg := otherCfg })
      (fun t => t.rp == some (.writeBuffer 1 0x00000044) && t.ph == .errclr) = true := by decide
-- 95_test_vectors.md 2.5, 2.6: the identity is the upper half
theorem test_jb_reset_resp :
    nextSat (exec .jbReset { serving .resp .reset with answers := [0x0004FFFF] })
      (fun t => t.conn == .connected && t.rsp == some ⟨.ok, .attached, 0⟩ && t.ph == .idle) = true := by
  decide
theorem test_jb_ping_resp :
    nextSat (exec .jbPing { serving .resp .ping with answers := [0x04000000] })
      (fun t => t.conn == .disconnected && t.rsp == some ⟨.ok, .detached, 0⟩) = true := by decide
theorem test_jb_ping_fill : nextSat (exec .jbPing (serving .fill0 .ping))
    (fun t => t.bufWord 0 == some 0 && t.ph == .enc) = true := by decide
-- R175 example
theorem test_jb_read_resp :
    nextSat (exec .jbRead { serving .resp .read with answers := [0x78563412] })
      (fun t => t.rsp == some ⟨.ok, .noEvent, 0x12345678⟩) = true := by decide
-- 95_test_vectors.md 2.6 and 2.7
theorem test_transact_refused : nextSat (exec (.transact 7) State.reset)
    (fun t => t.rsp == some ⟨.notConnected, .noEvent, 0⟩ && t.ph == .idle && t.rp == none) = true := by
  decide
theorem test_transact : nextSat (exec (.transact 1024) { State.reset with conn := .connected })
    (fun t => t.valR == 1024 && t.cmdR == .write && t.ph == .clr) = true := by decide
theorem test_tick_connected : nextSat (exec (.tick 9) { State.reset with conn := .connected })
    (fun t => t.cmdR == .ping && t.ph == .clr && t.valR == 0) = true := by decide
-- R28: a request while busy waits
theorem test_tick_busy : nextSat (exec (.tick 9) (serving .enc .ping))
    (fun t => t.reqs == [0x000000009] && t.ph == .enc) = true := by decide
-- R152: CLR_ID_WORDS = 8
theorem test_short_clear :
    nextSat (exec .jbPing { serving .clr .ping with cfg := otherCfg, k := 7 })
      (fun t => t.ph == .fill0 && t.k == 7) = true := by decide
-- 95_test_vectors.md, words on the ports
theorem test_rsp_words : Response.word ⟨.ok, .attached, 0⟩ = 0x100000000 ∧
    Response.word ⟨.notConnected, .noEvent, 0⟩ = 0x400000000 ∧
    Response.word ⟨.busTimeout, .noEvent, 0⟩ = 0x800000000 := by decide
theorem test_access_words : Access.word (.writeControl 13 0x03010383) = 0x2D03010383 ∧
    Access.word (.readBuffer 0 0xFFFFFFFF) = 0x4000000000 := by decide

/-! ### Witnesses: for each statement with hypotheses, states that meet them, one per clause -/

/-- Every phase that the graph of R22 lets a command reach satisfies the invariant. -/
theorem test_inv_serving (ph : Phase) (cmd : Command) (h1 : ph = .fill1 → cmd = .write)
    (h2 : ph = .errclr → cmd = .read ∨ cmd = .write) (h3 : ph = .resp → cmd ≠ .write) :
    (serving ph cmd).Inv where
  cfg := test_wf_ref
  notPresented := rfl
  ctrlWf := rfl
  bufWf := rfl
  ctrlBelow := by simp [Memory.below, serving, State.reset]
  bufBelow := by simp [Memory.below, serving, State.reset]
  op := by
    intro _
    cases cmd <;> simp [State.opMatches, serving, State.reset, tickCommand]
  clr := by
    intro _
    cases cmd <;> simp [serving, State.reset, Command.nClr, Cfg.ref]
  fill1 := h1
  errclr := h2
  resp := h3
  cw := fun _ => rfl
  count := by simp [serving, State.reset, Cfg.ref]
  reads := by simp [serving, State.reset, Cfg.ref]

-- WriteControlStoresWholeWord, ReadControlTakesControllerWord, ControlIndexOutsideWindowRefused: 15 and 16
theorem witness_control_index : (15 : BitVec 5).toNat < State.reset.cfg.nctrl ∧
    State.reset.cfg.nctrl ≤ (16 : BitVec 5).toNat := by decide
-- ReadControlTakesControllerWord, ReadBufferTakesControllerWord: an answer, and none
theorem witness_answers : { State.reset with answers := [5] }.answers = 5 :: [] ∧
    State.reset.answers = [] := by decide
-- EncodeLatchesWordAndClearsStatus, EncodeMasksOperands, IllFormedCfgRefused
theorem witness_cfg : State.reset.cfg.wellFormed = true ∧ State.reset.rst = false ∧
    { State.reset with cfg := { Cfg.ref with nctrl := 0 } }.cfg.wellFormed = false := by decide
-- ControlWordFieldLayout, ControlWordOrIsSum: bit 31 and bit 3 lie outside every field of CFG_REF
theorem witness_unnamed_bits : Cfg.ref.wellFormed = true ∧
    (∀ f ∈ Cfg.ref.fields, 31 < f.1 ∨ f.1 + f.2 ≤ 31) ∧ (∀ f ∈ Cfg.ref.fields, 3 < f.1 ∨ f.1 + f.2 ≤ 3) := by
  decide

/-- POLL1 under a bound of two reads, with the count and the answer given. -/
def polling (ph : Phase) (cmd : Command) (n : Nat) (r : Word) : State :=
  { serving ph cmd with cfg := otherCfg, n := n, answers := [r] }

-- PollBeforeArmStep: clear; busy with no bound; busy and not the last; busy and the last
theorem witness_poll1 :
    ((polling .poll1 .reset 0 0).cfg.wellFormed = true ∧ (polling .poll1 .reset 0 0).ph = .poll1 ∧
      (polling .poll1 .reset 0 0).nextAnswer.getLsbD 0 = false) ∧
    ({ serving .poll1 .reset with answers := [1] }.cfg.pollLimit = none ∧
      { serving .poll1 .reset with answers := [1] }.nextAnswer.getLsbD 0 = true) ∧
    ((polling .poll1 .reset 0 1).cfg.pollLimit = some 2 ∧ (polling .poll1 .reset 0 1).n + 1 ≠ 2) ∧
    ((polling .poll1 .reset 1 1).cfg.pollLimit = some 2 ∧ (polling .poll1 .reset 1 1).n + 1 = 2) := by
  decide
-- ArmStepWritesControlWord: with and without a bound
theorem witness_arm : (serving .arm .ping).cfg.pollLimit = none ∧ (serving .arm .ping).ph = .arm ∧
    (serving .arm .ping).cfg.wellFormed = true ∧ (polling .arm .ping 3 0).cfg.pollLimit ≠ none := by decide
-- PollAfterArmStep: clear after JB_WRITE and after another command; busy as in witness_poll1
theorem witness_poll2 :
    ((polling .poll2 .write 0 0).cmdR = .write ∧ (polling .poll2 .write 0 0).cfg.wellFormed = true ∧
      (polling .poll2 .write 0 0).nextAnswer.getLsbD 0 = false) ∧
    ((polling .poll2 .read 0 0).cmdR ≠ .write ∧ (polling .poll2 .read 0 0).ph = .poll2) ∧
    ((polling .poll2 .read 0 1).n + 1 ≠ 2 ∧ (polling .poll2 .read 1 1).n + 1 = 2) ∧
    ({ serving .poll2 .read with answers := [1] }.cfg.pollLimit = none ∧
      { serving .poll2 .read with answers := [1] }.nextAnswer.getLsbD 0 = true) := by decide
-- ExecuteBeginsWithPoll: IDLE, with an answer that is not busy
theorem witness_execute_begins : State.reset.cfg.wellFormed = true ∧ State.reset.ph ≠ .poll1 ∧
    State.reset.ph ≠ .arm ∧ State.reset.ph ≠ .poll2 ∧
    { State.reset with answers := [0] }.nextAnswer.getLsbD 0 = false := by decide
/-- A poll phase with these answers to come. -/
def answered (ph : Phase) (cmd : Command) (cfg : Cfg) (answers : List Word) : State :=
  { serving ph cmd with cfg := cfg, answers := answers }

-- UnboundedPollNeverLeaves: two busy reads in either loop
theorem witness_unbounded_poll :
    (answered .poll2 .ping Cfg.ref [1, 1]).ownStep ∧ (answered .poll1 .ping Cfg.ref [1, 1]).ownStep ∧
    (answered .poll2 .ping Cfg.ref [1, 1]).cfg.wellFormed = true ∧
    (answered .poll2 .ping Cfg.ref [1, 1]).cfg.pollLimit = none ∧
    (answered .poll2 .ping Cfg.ref [1, 1]).ph = .poll2 ∧ (answered .poll1 .ping Cfg.ref [1, 1]).ph = .poll1 ∧
    (answered .poll2 .ping Cfg.ref [1, 1]).answers = [1, 1] ++ [] ∧ ([1, 1] : List Word) ≠ [] ∧
    ∀ r ∈ ([1, 1] : List Word), r.getLsbD Cfg.ref.pollBit.val = true :=
  ⟨⟨rfl, rfl⟩, ⟨rfl, rfl⟩, test_wf_ref, rfl, rfl, rfl, rfl, by decide, by simp [Cfg.ref]⟩
-- BoundedPollTimesOut: the bound reached; not reached; ended normally by the last read allowed
theorem witness_bounded_poll :
    ((answered .poll1 .ping otherCfg [1, 1]).ownStep ∧ (answered .poll1 .ping otherCfg [1, 1]).ph = .poll1 ∧
      (answered .poll1 .ping otherCfg [1, 1]).cfg.wellFormed = true ∧
      (answered .poll1 .ping otherCfg [1, 1]).cfg.pollLimit = some 2 ∧
      (answered .poll1 .ping otherCfg [1, 1]).n = 0 ∧
      (answered .poll1 .ping otherCfg [1, 1]).answers = [1] ++ 1 :: [] ∧ ([1] : List Word).length < 2) ∧
    (answered .poll1 .ping otherCfg [1]).answers = [] ++ 1 :: [] ∧
    ((answered .poll2 .ping otherCfg [1, 0]).ownStep ∧ (answered .poll2 .ping otherCfg [1, 0]).ph = .poll2 ∧
      (answered .poll2 .ping otherCfg [1, 0]).n = 0 ∧
      (answered .poll2 .ping otherCfg [1, 0]).answers = [1] ++ 0 :: []) ∧
    (∀ r ∈ ([1] : List Word), r.getLsbD otherCfg.pollBit.val = true) ∧
    (0 : Word).getLsbD otherCfg.pollBit.val = false :=
  ⟨⟨⟨rfl, rfl⟩, rfl, test_wf_other, rfl, rfl, rfl, by decide⟩, rfl, ⟨⟨rfl, rfl⟩, rfl, rfl, rfl⟩,
    by simp [otherCfg, Cfg.ref], by decide⟩
-- ClearStepZeroesOneWord: the last word of a full clear, of a short clear, and a word before it
theorem witness_clear_step : { serving .clr .write with k := 31 }.k.toNat + 1 = Command.nClr Cfg.ref .write ∧
    { serving .clr .ping with cfg := otherCfg, k := 7 }.k.toNat + 1 = Command.nClr otherCfg .ping ∧
    (serving .clr .reset).k.toNat + 1 ≠ Command.nClr Cfg.ref .reset ∧ (serving .clr .reset).ph = .clr := by
  decide
-- Fill0StepWritesFirstWord for each command, WriteFrameOnTheWire
theorem witness_fill0 : ((serving .fill0 .write).ph = .fill0 ∧ (serving .fill0 .write).cmdR = .write) ∧
    ((serving .fill0 .read).ph = .fill0 ∧ (serving .fill0 .read).cmdR = .read) ∧
    ((serving .fill0 .reset).ph = .fill0 ∧ (serving .fill0 .reset).cmdR = .reset) ∧
    (serving .fill0 .ping).ph = .fill0 ∧ (serving .fill0 .ping).cmdR = .ping := by decide
-- Fill1StepWritesSecondWord, ErrclrStepWritesPattern for each command, EncStepEvaluatesEncode
theorem witness_phases : ((serving .fill1 .write).ph = .fill1 ∧ (serving .fill1 .write).cmdR = .write) ∧
    ((serving .errclr .read).cfg.wellFormed = true ∧ (serving .errclr .read).ph = .errclr ∧
      (serving .errclr .read).cmdR = .read) ∧
    ((serving .errclr .write).cfg.wellFormed = true ∧ (serving .errclr .write).ph = .errclr ∧
      (serving .errclr .write).cmdR = .write) ∧
    (serving .enc .ping).ph = .enc ∧ (serving .enc .ping).cfg.wellFormed = true := by decide
-- RespAfterWriteFaults, CommandBeginsWithFirstClear
theorem witness_resp_write : ((serving .resp .write).ph = .resp ∧ (serving .resp .write).cmdR = .write) ∧
    State.reset.cfg.wellFormed = true ∧ State.reset.ph = .idle := by decide
-- ResetResponseAttaches: the identity 0x0004 and another; PingResponseDetaches likewise
theorem witness_resp_reset : (answered .resp .reset Cfg.ref [0x0004FFFF]).ph = .resp ∧
    (answered .resp .reset Cfg.ref [0x0004FFFF]).cmdR = .reset ∧
    (answered .resp .reset Cfg.ref [0x0004FFFF]).conn = .disconnected ∧
    (answered .resp .reset Cfg.ref [0x0004FFFF]).nextAnswer.extractLsb' 16 16 = 0x0004#16 ∧
    (answered .resp .reset Cfg.ref [0x00050000]).nextAnswer.extractLsb' 16 16 ≠ 0x0004#16 := by decide
theorem witness_resp_ping : (answered .resp .ping Cfg.ref [0x80040000]).ph = .resp ∧
    (answered .resp .ping Cfg.ref [0x80040000]).cmdR = .ping ∧
    (answered .resp .ping Cfg.ref [0x80040000]).conn = .connected ∧
    (answered .resp .ping Cfg.ref [0x80040000]).nextAnswer.extractLsb' 16 16 ≠ 0x0004#16 ∧
    (answered .resp .ping Cfg.ref [0x00040000]).nextAnswer.extractLsb' 16 16 = 0x0004#16 := by decide
-- ReadResponseReturnsSwappedWord
theorem witness_resp_read : (serving .resp .read).ph = .resp ∧ (serving .resp .read).cmdR = .read := by decide
-- CommandWordTable: both lane orders
theorem witness_lane_orders : Cfg.ref.laneOrder = .msbFirst ∧ otherCfg.laneOrder = .lsbFirst := by decide
-- ClearLoopZeroesBuffer: the full and the short clear
theorem witness_clear_loop : (serving .clr .reset).ownStep ∧ (serving .clr .reset).k = 0 ∧
    (serving .clr .reset).cfg.wellFormed = true ∧ (serving .clr .reset).ph = .clr ∧
    Command.nClr Cfg.ref .reset = 32 ∧ Command.nClr otherCfg .reset = 8 := by
  refine ⟨⟨rfl, rfl⟩, ?_⟩
  decide
-- TickStartsIdentifyCommand, TransactStartsWriteCommand, TransactWhileDisconnectedRaises
theorem witness_idle_conn : State.reset.ph = .idle ∧ State.reset.conn = .disconnected ∧
    { State.reset with conn := .connected }.ph = .idle ∧
    { State.reset with conn := .connected }.conn = .connected := by decide
-- RequestWaitsWhileBusy: a busy block with a request on the port takes a step
theorem witness_busy : { serving .clr .ping with reqs := [5] }.ownStep ∧
    { serving .clr .ping with reqs := [5] }.ph ≠ .idle ∧
    ∃ t, step { serving .clr .ping with reqs := [5] } = .next t :=
  ⟨⟨rfl, rfl⟩, by decide, _, rfl⟩
-- IdleStepAcceptsOneRequest: no request, a tick, a transact in either connection state
theorem witness_idle_requests : State.reset.ownStep ∧ State.reset.cfg.wellFormed = true ∧
    State.reset.reqs = [] ∧ (0x000000005 : HostReqWord).getLsbD 32 = false ∧
    (0x100000005 : HostReqWord).getLsbD 32 = true ∧
    { State.reset with conn := .connected, reqs := [0x100000005] }.reqs = 0x100000005 :: [] := by
  refine ⟨⟨rfl, rfl⟩, ?_⟩
  decide
-- ConnChangesOnlyOnDetectionTick, ResponseWordFormat: an attaching and a detaching step from states that satisfy the invariant
theorem witness_inv_answers (s : State) (a : List Word) (h : s.Inv) : { s with answers := a }.Inv :=
  { cfg := h.cfg, notPresented := h.notPresented, ctrlWf := h.ctrlWf, bufWf := h.bufWf
    ctrlBelow := h.ctrlBelow, bufBelow := h.bufBelow, op := h.op, clr := h.clr, fill1 := h.fill1
    errclr := h.errclr, resp := h.resp, cw := h.cw, count := h.count, reads := h.reads }
theorem witness_attach : { serving .resp .reset with answers := [0x00040000] }.Inv ∧
    ∃ t, step { serving .resp .reset with answers := [0x00040000] } = .next t ∧ t.conn = .connected ∧
      t.rsp = some ⟨.ok, .attached, 0⟩ :=
  ⟨witness_inv_answers _ _ (test_inv_serving .resp .reset (by decide) (by decide) (by decide)),
    _, rfl, by decide, by decide⟩
theorem witness_detach : { serving .resp .ping with answers := [0] }.Inv ∧
    ∃ t, step { serving .resp .ping with answers := [0] } = .next t ∧ t.conn = .disconnected ∧
      t.rsp = some ⟨.ok, .detached, 0⟩ :=
  ⟨witness_inv_answers _ _ (test_inv_serving .resp .ping (by decide) (by decide) (by decide)),
    _, rfl, by decide, by decide⟩
/-- An idle block with one request on the port and these answers to come. -/
def requested (conn : Conn) (cfg : Cfg) (w : HostReqWord) (answers : List Word) : State :=
  { State.reset with conn := conn, cfg := cfg, reqs := [w], answers := answers }

-- TickRunsOneIdentifyCommand: one busy read in each loop under a bound of two
theorem witness_tick_run :
    (requested .disconnected otherCfg 5 [1, 0, 1, 2, 0x00040000]).ownStep ∧
    (requested .disconnected otherCfg 5 [1, 0, 1, 2, 0x00040000]).cfg.wellFormed = true ∧
    (requested .disconnected otherCfg 5 [1, 0, 1, 2, 0x00040000]).ph = .idle ∧
    (requested .disconnected otherCfg 5 [1, 0, 1, 2, 0x00040000]).reqs = 5 :: [] ∧
    (5 : HostReqWord).getLsbD 32 = false ∧
    (requested .disconnected otherCfg 5 [1, 0, 1, 2, 0x00040000]).answers =
      [1] ++ 0 :: ([1] ++ 2 :: 0x00040000 :: []) ∧
    (∀ r ∈ ([1] ++ [1] : List Word), r.getLsbD otherCfg.pollBit.val = true) ∧
    (∀ r ∈ ([0, 2] : List Word), r.getLsbD otherCfg.pollBit.val = false) ∧
    (∀ m ∈ otherCfg.pollLimit, ([1] : List Word).length < m ∧ ([1] : List Word).length < m) :=
  ⟨⟨rfl, rfl⟩, test_wf_other, rfl, rfl, by decide, rfl, by simp [otherCfg, Cfg.ref],
    by simp [otherCfg, Cfg.ref], by decide⟩
-- TransactRunsWriteThenRead: the same for its four loops, while Connected
theorem witness_transact_run :
    (requested .connected otherCfg 0x100000400 [0, 1, 0, 0, 1, 0, 0x78563412, 9]).ownStep ∧
    (requested .connected otherCfg 0x100000400 [0, 1, 0, 0, 1, 0, 0x78563412, 9]).cfg.wellFormed = true ∧
    (requested .connected otherCfg 0x100000400 [0, 1, 0, 0, 1, 0, 0x78563412, 9]).ph = .idle ∧
    (requested .connected otherCfg 0x100000400 [0, 1, 0, 0, 1, 0, 0x78563412, 9]).reqs = 0x100000400 :: [] ∧
    (0x100000400 : HostReqWord).getLsbD 32 = true ∧
    (requested .connected otherCfg 0x100000400 [0, 1, 0, 0, 1, 0, 0x78563412, 9]).conn = .connected ∧
    (requested .connected otherCfg 0x100000400 [0, 1, 0, 0, 1, 0, 0x78563412, 9]).answers =
      [] ++ 0 :: ([1] ++ 0 :: ([] ++ 0 :: ([1] ++ 0 :: 0x78563412 :: [9]))) ∧
    (∀ r ∈ ([] ++ [1] ++ [] ++ [1] : List Word), r.getLsbD otherCfg.pollBit.val = true) ∧
    (∀ r ∈ ([0, 0, 0, 0] : List Word), r.getLsbD otherCfg.pollBit.val = false) ∧
    (∀ m ∈ otherCfg.pollLimit, ([] : List Word).length < m ∧ ([1] : List Word).length < m) :=
  ⟨⟨rfl, rfl⟩, test_wf_other, rfl, rfl, by decide, rfl, rfl, by simp [otherCfg, Cfg.ref],
    by simp [otherCfg, Cfg.ref], by decide⟩
-- StepRunsFetchedOperation: a request, a busy block, a packet that decodes and one that does not
theorem witness_fetch : { State.reset with reqs := [5] }.reqs = 5 :: [] ∧ (serving .enc .ping).ph ≠ .idle ∧
    (serving .enc .ping).presented = none ∧
    decodesTo Cfg.ref (.regPort 0x2E80000000) (.writeControl 14 0x80000000) = true ∧
    decodeFails Cfg.ref (.frame [1]) (.unknownHeader 1) = true := by decide
-- ResetEdgeEntersResetState: in the middle of a transfer
theorem witness_reset_edge : { serving .poll2 .read with rst := true }.rst = true ∧
    { serving .poll2 .read with rst := true }.conn = .connected := by decide
-- StepFollowsPhaseGraph, StepKeepsInvariant, InvariantStepNeverStops, ResponseExactlyAtEndOfOperation,
-- StepKeepsWindowsCanonical, StepKeepsConfiguration: an own step of a state that satisfies the invariant
theorem witness_own_step : (serving .fill0 .write).Inv ∧ (serving .fill0 .write).ownStep ∧
    ∃ t, step (serving .fill0 .write) = .next t ∧ t.ph = .fill1 :=
  ⟨test_inv_serving .fill0 .write (by decide) (by decide) (by decide), ⟨rfl, rfl⟩, _, rfl, by decide⟩
-- ErrorResponseChangesNothingElse, TransactWhileDisconnectedRaises: a TRANSACT while Disconnected
theorem witness_errored : ∃ t, step { State.reset with reqs := [0x100000007] } = .next t ∧ t.errored :=
  ⟨_, rfl, _, rfl, by decide⟩
-- TransactWhileDisconnectedRaises: the first request of program P4 from a state that satisfies the invariant
theorem witness_fault_outcome : { serving .idle .reset with reqs := [0x100000007] }.Inv ∧
    { serving .idle .reset with reqs := [0x100000007] }.rst = false ∧
    { serving .idle .reset with reqs := [0x100000007] }.ph = .idle ∧
    { serving .idle .reset with reqs := [0x100000007] }.conn = .disconnected ∧
    (0x100000007 : HostReqWord).getLsbD 32 = true ∧
    { serving .idle .reset with reqs := [0x100000007] }.faults = [] :=
  have h := test_inv_serving .idle .reset (by decide) (by decide) (by decide)
  ⟨{ cfg := h.cfg, notPresented := h.notPresented, ctrlWf := h.ctrlWf, bufWf := h.bufWf
     ctrlBelow := h.ctrlBelow, bufBelow := h.bufBelow, op := h.op, clr := h.clr, fill1 := h.fill1
     errclr := h.errclr, resp := h.resp, cw := h.cw, count := h.count, reads := h.reads }, by decide⟩
-- TransactWhileDisconnectedRaises: a run whose outcome is a next state and which accepts a TRANSACT
theorem witness_no_fault_outcome :
    (∃ t, runOutcome 1 { State.reset with conn := .connected, reqs := [0x100000400] } = .next t) ∧
    { State.reset with conn := .connected, reqs := [0x100000400] }.ownStep ∧
    { State.reset with conn := .connected, reqs := [0x100000400] }.ph = .idle :=
  ⟨⟨_, rfl⟩, ⟨rfl, rfl⟩, rfl⟩
-- R176, R192, program P4 of 95_test_vectors.md: the next request is accepted, and the run keeps its fault outcome
theorem test_fault_outcome_stays :
    nextSat (core.run 2 { State.reset with reqs := [0x100000007, 0] }) (fun t =>
      t.ph == .clr && t.cmdR == .reset && t.faults == [.notConnected]) = true := by decide
-- NoBufferAccessInFlight, PollBracketsTransfer, OnlySequencerAccessesEmitted: a clear read in each loop, the
-- three control writes, and the buffer read
theorem witness_poll_to_arm : { serving .poll1 .ping with answers := [0] }.Inv ∧
    ∃ t, step { serving .poll1 .ping with answers := [0] } = .next t ∧ t.ph = .arm ∧
      t.rp = some (.readControl 13 0) :=
  ⟨witness_inv_answers _ _ (test_inv_serving .poll1 .ping (by decide) (by decide) (by decide)),
    _, rfl, by decide, by decide⟩
theorem witness_poll_to_resp : { serving .poll2 .ping with answers := [0] }.Inv ∧
    ∃ t, step { serving .poll2 .ping with answers := [0] } = .next t ∧ t.ph = .resp :=
  ⟨witness_inv_answers _ _ (test_inv_serving .poll2 .ping (by decide) (by decide) (by decide)),
    _, rfl, by decide⟩
theorem witness_arm_access : ∃ t, step (serving .arm .ping) = .next t ∧
    t.rp = some (.writeControl 13 0x03010383) := ⟨_, rfl, by decide⟩
theorem witness_enc_access : ∃ t, step (serving .enc .ping) = .next t ∧
    t.rp = some (.writeControl 14 0x80000000) := ⟨_, rfl, by decide⟩
theorem witness_errclr_access : ∃ t, step (serving .errclr .read) = .next t ∧
    t.rp = some (.writeControl 14 0x000F0000) := ⟨_, rfl, by decide⟩
theorem witness_clr_access : ∃ t, step (serving .clr .read) = .next t ∧
    t.rp = some (.writeBuffer 0 0) := ⟨_, rfl, by decide⟩
theorem witness_resp_access : ∃ t, step { serving .resp .read with answers := [7] } = .next t ∧
    t.rp = some (.readBuffer 0 7) := ⟨_, rfl, by decide⟩
-- DecodeOfEncode, EncodeOfDecode: the largest operands of the control word, the largest control index
theorem witness_encodable : Instr.wellFormed Cfg.ref (.encode 3 127 127) = true ∧
    Instr.wellFormed Cfg.ref (.readControl 15 0xFFFFFFFF) = true ∧
    decodesTo Cfg.ref (.controlWord 0x077F7F87) (.encode 3 127 127) = true := by decide
-- UndecodableRejectedByName: each clause at a boundary
theorem witness_undecodable : (0x01 : Byte) ≠ 0xFF ∧ (0x01 : Byte) ≠ 0x00 ∧ (0x01 : Byte) ≠ 0x14 ∧
    (0x01 : Byte) ≠ 0x15 ∧ ([1, 2, 3] : List Byte).length < 4 ∧ 4 < ([1, 2, 3, 4, 5] : List Byte).length ∧
    (0x03010381 : Word).extractLsb' Cfg.ref.posChsel 2 ≠ (0x03010381 : Word).extractLsb' Cfg.ref.posChdup 2 ∧
    Cfg.ref.nctrl ≤ (16 : BitVec 5).toNat := by decide
-- UndecodableRejectedByName: 0x03010383 with each of its flags CHEN, CMDEN, START cleared, and with bit 3 set
theorem witness_control_word_bits : Cfg.ref.wellFormed = true ∧
    ((0x02010383 : Word).extractLsb' Cfg.ref.posChsel 2 = (0x02010383 : Word).extractLsb' Cfg.ref.posChdup 2 ∧
      (0x02010383 : Word).getLsbD Cfg.ref.posChen = false) ∧
    ((0x03010303 : Word).extractLsb' Cfg.ref.posChsel 2 = (0x03010303 : Word).extractLsb' Cfg.ref.posChdup 2 ∧
      (0x03010303 : Word).getLsbD Cfg.ref.posCmden = false) ∧
    ((0x03010382 : Word).extractLsb' Cfg.ref.posChsel 2 = (0x03010382 : Word).extractLsb' Cfg.ref.posChdup 2 ∧
      (0x03010382 : Word).getLsbD Cfg.ref.posStart = false) ∧
    (0x0301038B : Word).extractLsb' Cfg.ref.posChsel 2 = (0x0301038B : Word).extractLsb' Cfg.ref.posChdup 2 ∧
    (∀ f ∈ Cfg.ref.fields, 3 < f.1 ∨ f.1 + f.2 ≤ 3) ∧ (0x0301038B : Word).getLsbD 3 = true := by decide
-- UndecodableRejectedByName: the frame 01 is the encoding of no operation
theorem witness_no_encoding : ∀ i : Instr, i.wellFormed Cfg.ref = true → encode Cfg.ref i ≠ .frame [1] := by
  intro i _
  cases i <;> simp [encode, headerReset, headerPing, headerRead, headerWrite]

end Sys2Proof.Tests
end

section
/-! SUPPORT. The control word as the OR of a list of operands, each shifted into its field, and the sum that this OR
is where the fields fit in the word and share no bit (R9, R130). -/

namespace Sys2Proof.Machine

/-! ### Words that share no bit -/

/-- A word that shares no bit with any of the listed words shares none with their OR. -/
theorem and_foldr_or_eq_zero {a : Word} {ws : List Word} (h : ∀ b ∈ ws, a &&& b = 0#32) :
    a &&& ws.foldr (· ||| ·) 0#32 = 0#32 := by
  induction ws with
  | nil => simp
  | cons b ws ih =>
    obtain ⟨hb, hws⟩ := List.forall_mem_cons.1 h
    rw [List.foldr_cons, BitVec.and_or_distrib_left, hb, ih hws, BitVec.or_zero]

/-- The OR of words that pairwise share no bit is their sum. -/
theorem toNat_foldr_or {ws : List Word} (h : ws.Pairwise fun a b => a &&& b = 0#32) :
    (ws.foldr (· ||| ·) 0#32).toNat = (ws.map BitVec.toNat).sum := by
  induction ws with
  | nil => rfl
  | cons a ws ih =>
    obtain ⟨ha, hws⟩ := List.pairwise_cons.1 h
    have hzero := and_foldr_or_eq_zero ha
    rw [List.foldr_cons, ← BitVec.add_eq_or_of_and_eq_zero _ _ hzero,
      BitVec.toNat_add_of_and_eq_zero hzero, ih hws, List.map_cons, List.sum_cons]

/-! ### Operands in their fields -/

/-- The operand has no more bits than the field, and the field lies inside the word (R9). -/
def FitsField (f : Nat × Nat) (v : Word) : Prop := v.toNat < 2 ^ f.2 ∧ f.1 + f.2 ≤ 32

/-- No bit of an operand that fits is shifted out of the word. -/
theorem FitsField.toNat_shiftLeft {f : Nat × Nat} {v : Word} (h : FitsField f v) :
    (v <<< f.1).toNat = v.toNat * 2 ^ f.1 := by
  obtain ⟨hv, hf⟩ := h
  have hlt : v.toNat * 2 ^ f.1 < 2 ^ 32 := calc
    v.toNat * 2 ^ f.1 < 2 ^ f.2 * 2 ^ f.1 := by gcongr
    _ = 2 ^ (f.1 + f.2) := by rw [← pow_add, Nat.add_comm]
    _ ≤ 2 ^ 32 := by gcongr; decide
  rw [BitVec.toNat_shiftLeft, Nat.shiftLeft_eq, Nat.mod_eq_of_lt hlt]

/-- An operand in its field shares no bit with an operand shifted to above that field. -/
theorem FitsField.and_shiftLeft_of_le {f : Nat × Nat} {v : Word} (h : FitsField f v) {q : Nat}
    (hq : f.1 + f.2 ≤ q) (u : Word) : v <<< f.1 &&& u <<< q = 0#32 := by
  refine BitVec.eq_of_getLsbD_eq fun b _ => ?_
  by_cases hb : b < q
  · simp [hb]
  · have hv : v.getLsbD (b - f.1) = false := by
      rw [← BitVec.testBit_toNat]
      exact Nat.testBit_lt_two_pow (h.1.trans_le (Nat.pow_le_pow_right two_pos (by omega)))
    simp [hv]

theorem FitsField.and_eq_zero {f g : Nat × Nat} {v u : Word} (hf : FitsField f v) (hg : FitsField g u)
    (hd : fieldsDisjoint f g) : v <<< f.1 &&& u <<< g.1 = 0#32 := by
  obtain hd | hd := hd
  · exact hf.and_shiftLeft_of_le hd u
  · rw [BitVec.and_comm]
    exact hg.and_shiftLeft_of_le hd v

/-- The OR of operands in disjoint fields is the sum of the shifted operands. -/
theorem toNat_foldr_or_fields {fvs : List ((Nat × Nat) × Word)} (hfit : ∀ p ∈ fvs, FitsField p.1 p.2)
    (hd : (fvs.map Prod.fst).Pairwise fieldsDisjoint) :
    ((fvs.map fun p => p.2 <<< p.1.1).foldr (· ||| ·) 0#32).toNat =
      (fvs.map fun p => p.2.toNat * 2 ^ p.1.1).sum := by
  have hpair : (fvs.map fun p => p.2 <<< p.1.1).Pairwise fun a b => a &&& b = 0#32 :=
    List.pairwise_map.2 ((List.pairwise_map.1 hd).imp_of_mem fun hp hq hpq =>
      (hfit _ hp).and_eq_zero (hfit _ hq) hpq)
  rw [toNat_foldr_or hpair, List.map_map]
  exact congrArg List.sum (List.map_congr_left fun p hp => (hfit p hp).toNat_shiftLeft)

/-! ### The control word -/

theorem toNat_maskChannel (x : Word) : (maskChannel x).toNat = x.toNat % 4 :=
  Nat.and_two_pow_sub_one_eq_mod x.toNat 2

theorem toNat_maskLength (x : Word) : (maskLength x).toNat = x.toNat % 128 :=
  Nat.and_two_pow_sub_one_eq_mod x.toNat 7

/-- The seven fields of the control word (R33), each with the operand that ENCODE puts there (R130). -/
def encodeFields (c : Cfg) (channel inputLen outputLen : Word) : List ((Nat × Nat) × Word) :=
  c.fields.zip [maskChannel channel, 1, maskLength outputLen, maskLength inputLen, 1, maskChannel channel, 1]

theorem encodeWord_eq_foldr (c : Cfg) (channel inputLen outputLen : Word) :
    encodeWord c channel inputLen outputLen =
      ((encodeFields c channel inputLen outputLen).map fun p => p.2 <<< p.1.1).foldr (· ||| ·) 0#32 := by
  simp [encodeWord, encodeFields, Cfg.fields, BitVec.or_assoc]

/-- The masks of ENCODE cut every operand to the width of its field. -/
theorem encodeFields_fit {c : Cfg} (h : c.wellFormed = true) (channel inputLen outputLen : Word) :
    ∀ p ∈ encodeFields c channel inputLen outputLen, FitsField p.1 p.2 := by
  obtain ⟨hchsel, hchen, houtlen, hinlen, hcmden, hchdup, hstart⟩ := wf_fields h
  have hchan : (maskChannel channel).toNat < 4 := by rw [toNat_maskChannel]; omega
  have hout : (maskLength outputLen).toNat < 128 := by rw [toNat_maskLength]; omega
  have hin : (maskLength inputLen).toNat < 128 := by rw [toNat_maskLength]; omega
  simp [encodeFields, Cfg.fields, FitsField, *]

/-- Settles O11: the OR of the seven disjoint fields is their sum. -/
theorem controlWordOrIsSum : Obligations.ControlWordOrIsSum := by
  intro c channel inputLen outputLen h
  obtain ⟨-, -, -, hd, -⟩ := (wellFormed_iff c).1 h
  rw [encodeWord_eq_foldr, toNat_foldr_or_fields (encodeFields_fit h channel inputLen outputLen) hd]
  simp [encodeFields, Cfg.fields, toNat_maskChannel, toNat_maskLength, Nat.add_assoc]

end Sys2Proof.Machine
end

section
/-! SUPPORT. The configuration through every operation of the machine: a parameter of the step (R13), which no
operation writes, and which must be well formed for an operation to run (R9). -/

namespace Sys2Proof.Machine

/-! ### An ill-formed configuration -/

theorem fetch_of_not_wellFormed {s : State} (h : s.cfg.wellFormed = false) :
    fetch s = .error .cfgNotWellFormed := by
  rw [fetch, if_neg (by simp [h])]

/-- Settles O42: with no reset edge the fetch refuses before any operation is chosen. -/
theorem illFormedCfgRefused : Obligations.IllFormedCfgRefused := by
  intro s hr hc
  simp [step, hr, fetch_of_not_wellFormed hc]

/-! ### The updates of the state -/

@[simp] theorem State.startCount_cfg (s : State) : s.startCount.cfg = s.cfg := by
  rw [State.startCount_eq]

@[simp] theorem State.countRead_cfg (s : State) : s.countRead.cfg = s.cfg := by
  rw [State.countRead_eq]

@[simp] theorem State.pollAgain_cfg (s : State) : s.pollAgain.cfg = s.cfg := by
  by_cases h : s.lastPoll
  · rw [State.pollAgain_of_lastPoll h, State.raise_cfg]
  · rw [State.pollAgain_of_not_lastPoll h]

@[simp] theorem State.transferDone_cfg (s : State) : s.transferDone.cfg = s.cfg := by
  unfold State.transferDone
  split <;> rfl

@[simp] theorem State.enter_cfg (s : State) (c : Command) : (s.enter c).cfg = s.cfg := by
  unfold State.enter
  split <;> rfl

@[simp] theorem State.enterWrite_cfg (s : State) (v : Word) : (s.enterWrite v).cfg = s.cfg := by
  unfold State.enterWrite
  split <;> rfl

@[simp] theorem clrStep_cfg (s : State) : (clrStep s).cfg = s.cfg := by
  unfold clrStep
  split <;> rfl

@[simp] theorem fill0Step_cfg (s : State) : (fill0Step s).cfg = s.cfg := rfl

@[simp] theorem fill1Step_cfg (s : State) : (fill1Step s).cfg = s.cfg := rfl

@[simp] theorem finishTickDisconnected_cfg (rw : Word) (s : State) :
    (finishTickDisconnected rw s).cfg = s.cfg := by
  unfold finishTickDisconnected
  split <;> rfl

@[simp] theorem finishTickConnected_cfg (rw : Word) (s : State) :
    (finishTickConnected rw s).cfg = s.cfg := by
  unfold finishTickConnected
  split <;> rfl

@[simp] theorem finishTransact_cfg (rw : Word) (s : State) : (finishTransact rw s).cfg = s.cfg := rfl

/-! ### The accesses of the register port -/

theorem writeControl_cfg {index : BitVec 5} {value : Word} {s t : State}
    (h : writeControl index value s = .next t) : t.cfg = s.cfg := by
  unfold writeControl at h
  split at h <;> cases h
  rfl

theorem readControl_cfg {index : BitVec 5} {r : Word} {s t : State}
    (h : readControl index s = .next (r, t)) : t.cfg = s.cfg := by
  unfold readControl at h
  split at h <;> cases h
  rfl

theorem pollRead_cfg {r : Word} {s t : State} (h : pollRead s = .next (r, t)) : t.cfg = s.cfg := by
  obtain ⟨⟨r', u⟩, hu, h⟩ := andThen_eq_next h
  cases h
  rw [State.countRead_cfg, readControl_cfg hu]

theorem execEncode_cfg {a b c : Word} {s t : State} (h : execEncode a b c s = .next t) : t.cfg = s.cfg := by
  obtain ⟨u, hu, h⟩ := andThen_eq_next h
  cases h
  exact (writeControl_cfg hu :)

theorem execReadControl_cfg {index : BitVec 5} {wdata : Word} {s t : State}
    (h : execReadControl index wdata s = .next t) : t.cfg = s.cfg := by
  obtain ⟨⟨r, u⟩, hu, h⟩ := andThen_eq_next h
  cases h
  exact readControl_cfg hu

/-! ### The phases -/

theorem poll1Step_cfg {s t : State} (h : poll1Step s = .next t) : t.cfg = s.cfg := by
  obtain ⟨⟨r, u⟩, hu, h⟩ := andThen_eq_next h
  cases h
  rw [← pollRead_cfg hu]
  split
  · exact u.pollAgain_cfg
  · rfl

theorem poll2Step_cfg {s t : State} (h : poll2Step s = .next t) : t.cfg = s.cfg := by
  obtain ⟨⟨r, u⟩, hu, h⟩ := andThen_eq_next h
  cases h
  rw [← pollRead_cfg hu]
  split
  · exact u.pollAgain_cfg
  · exact u.transferDone_cfg

theorem armStep_cfg {s t : State} (h : armStep s = .next t) : t.cfg = s.cfg := by
  obtain ⟨u, hu, h⟩ := andThen_eq_next h
  cases h
  exact u.startCount_cfg.trans (writeControl_cfg hu)

theorem errclrStep_cfg {s t : State} (h : errclrStep s = .next t) : t.cfg = s.cfg := by
  obtain ⟨u, hu, h⟩ := andThen_eq_next h
  cases h
  exact (writeControl_cfg hu :)

theorem encStep_cfg {s t : State} (h : encStep s = .next t) : t.cfg = s.cfg := by
  obtain ⟨u, hu, h⟩ := andThen_eq_next h
  cases h
  exact u.startCount_cfg.trans (execEncode_cfg hu)

theorem respStep_cfg {s t : State} (h : respStep s = .next t) : t.cfg = s.cfg := by
  unfold respStep at h
  cases hm : s.cmdR <;> simp only [hm] at h <;> cases h
  case reset => exact finishTickDisconnected_cfg _ _
  case ping => exact finishTickConnected_cfg _ _
  case read => exact finishTransact_cfg _ _

theorem phaseStep_cfg {s t : State} (h : phaseStep s = .next t) : t.cfg = s.cfg := by
  cases hp : s.ph <;> simp only [phaseStep, hp] at h
  case idle => cases h; rfl
  case clr => cases h; exact clrStep_cfg s
  case fill0 => cases h; rfl
  case fill1 => cases h; rfl
  case errclr => exact errclrStep_cfg h
  case enc => exact encStep_cfg h
  case poll1 => exact poll1Step_cfg h
  case arm => exact armStep_cfg h
  case poll2 => exact poll2Step_cfg h
  case resp => exact respStep_cfg h

/-! ### The operations -/

theorem execExecute_cfg {s t : State} (h : execExecute s = .next t) : t.cfg = s.cfg := by
  unfold execExecute at h
  split at h
  case h_1 => exact poll1Step_cfg h
  case h_2 => exact armStep_cfg h
  case h_3 => exact poll2Step_cfg h
  all_goals exact (poll1Step_cfg h).trans s.startCount_cfg

theorem execTick_cfg {v : Word} {s t : State} (h : execTick v s = .next t) : t.cfg = s.cfg := by
  unfold execTick at h
  split at h <;> cases h <;> rfl

theorem execTransact_cfg {v : Word} {s t : State} (h : execTransact v s = .next t) : t.cfg = s.cfg := by
  unfold execTransact at h
  split at h
  case h_1 => split at h <;> cases h <;> rfl
  all_goals cases h; rfl

/-- No operation writes the configuration, in any state. -/
theorem exec_cfg {i : Instr} {s t : State} (h : exec i s = .next t) : t.cfg = s.cfg := by
  cases i with
  | tick v => exact execTick_cfg h
  | transact v => exact execTransact_cfg h
  | jbReset => exact (phaseStep_cfg h).trans (s.enter_cfg _)
  | jbPing => exact (phaseStep_cfg h).trans (s.enter_cfg _)
  | jbRead => exact (phaseStep_cfg h).trans (s.enter_cfg _)
  | jbWrite v => exact (phaseStep_cfg h).trans (s.enterWrite_cfg v)
  | encode a b c => exact execEncode_cfg h
  | execute => exact execExecute_cfg h
  | swap32 x => cases h; rfl
  | swap16h x => cases h; rfl
  | writeControl index value => exact writeControl_cfg h
  | readControl index wdata => exact execReadControl_cfg (wdata := wdata) h
  | writeBuffer index value => cases h; rfl
  | readBuffer index wdata => cases h; rfl

theorem fetch_cfg {s u : State} {i : Instr} (h : fetch s = .ok (some (i, u))) : u.cfg = s.cfg := by
  unfold fetch at h
  repeat' split at h
  all_goals cases h
  all_goals rfl

/-- Settles O55: a reset edge, an idle step, and the operation fetched each keep the configuration. -/
theorem stepKeepsConfiguration : Obligations.StepKeepsConfiguration := by
  intro s t h
  unfold step at h
  split at h
  · cases h
    exact s.applyReset_cfg
  · split at h
    · cases h
    · cases h
      exact s.clearPorts_cfg
    · rename_i i u hf
      exact (exec_cfg h).trans (fetch_cfg hf)

end Sys2Proof.Machine
end

section
/-! SUPPORT. The sequencer phase and the request port (10_state.md): the phase graph of R22 as the rows of an own
step, the requests that wait while the block is busy (R28), and what reset leaves (R43). -/

namespace Sys2Proof.Machine

/-! ### The phase graph -/

/-- Every row of an own step moves `ph` along a row of R22. -/
theorem phaseEdge_of_ownStep {s t : State} (h : OwnStep s t) : PhaseEdge s t.ph := by
  cases h with
  | wait hp hq => exact hp ▸ .idleIdle hp (by simp [State.startsCommand, hq])
  | tick w rest hp hq hw => exact .idleClr hp ⟨w, rest, hq, .inl hw⟩
  | transact w rest hp hq _ hn => exact .idleClr hp ⟨w, rest, hq, .inr hn⟩
  | notConnected w rest hp hq hw hn =>
    exact hp ▸ .idleIdle hp (by simp [State.startsCommand, hq, hw, hn])
  | clearMore hp hk => exact hp ▸ .clrClr hp hk
  | clearLast hp hk => exact .clrFill0 hp hk
  | fill0 hp =>
    show PhaseEdge s (afterFill0 s.cmdR)
    cases hm : s.cmdR with
    | reset => exact .fill0Enc hp (.inl hm)
    | ping => exact .fill0Enc hp (.inr hm)
    | read => exact .fill0Errclr hp hm
    | write => exact .fill0Fill1 hp hm
  | fill1 hp => exact .fill1Errclr hp
  | errclr hp => exact .errclrEnc hp
  | enc hp => exact .encPoll1 hp
  | pollAgain hp hb hl =>
    obtain hp | hp := hp
    · exact hp ▸ .poll1Poll1 hp hb hl
    · exact hp ▸ .poll2Poll2 hp hb hl
  | timeout hp hb hl => exact .timeout hp hb hl
  | poll1Done hp hb => exact .poll1Arm hp hb
  | arm hp => exact .armPoll2 hp
  | poll2Write hp hb hm => exact .poll2Clr hp hb hm
  | poll2Done hp hb hm => exact .poll2Resp hp hb hm
  | respReset hp => exact .respIdle hp
  | respPing hp => exact .respIdle hp
  | respRead hp => exact .respIdle hp

/-- No row of an own step is the RESP step of JB_WRITE (R157). -/
theorem OwnStep.resp_not_write {s t : State} (h : OwnStep s t) (hp : s.ph = .resp) : s.cmdR ≠ .write := by
  cases h <;> simp_all

/-- Every row of R22 is taken by a row of an own step, where RESP does not find a JB_WRITE. -/
theorem ownStep_of_phaseEdge {s : State} {p : Phase} (h : PhaseEdge s p)
    (hw : s.ph = .resp → s.cmdR ≠ .write) : ∃ t, OwnStep s t ∧ t.ph = p := by
  cases h with
  | idleClr hp hc =>
    obtain ⟨w, rest, hq, hc⟩ := hc
    cases hb : w.getLsbD 32 with
    | false => exact ⟨_, .tick w rest hp hq hb, rfl⟩
    | true => exact ⟨_, .transact w rest hp hq hb (hc.resolve_left (by simp [hb])), rfl⟩
  | idleIdle hp hc =>
    cases hq : s.reqs with
    | nil => exact ⟨_, .wait hp hq, hp⟩
    | cons w rest =>
      have hb : w.getLsbD 32 = true := by
        by_contra hb
        exact hc ⟨w, rest, hq, .inl (by simpa using hb)⟩
      have hn : s.conn = .disconnected := by
        cases hn : s.conn with
        | disconnected => rfl
        | connected => exact absurd ⟨w, rest, hq, .inr hn⟩ hc
      exact ⟨_, .notConnected w rest hp hq hb hn, hp⟩
  | clrClr hp hk => exact ⟨_, .clearMore hp hk, hp⟩
  | clrFill0 hp hk => exact ⟨_, .clearLast hp hk, rfl⟩
  | fill0Fill1 hp hm => exact ⟨_, .fill0 hp, congrArg afterFill0 hm⟩
  | fill0Enc hp hm => exact ⟨_, .fill0 hp, by obtain hm | hm := hm <;> exact congrArg afterFill0 hm⟩
  | fill0Errclr hp hm => exact ⟨_, .fill0 hp, congrArg afterFill0 hm⟩
  | fill1Errclr hp => exact ⟨_, .fill1 hp, rfl⟩
  | errclrEnc hp => exact ⟨_, .errclr hp, rfl⟩
  | encPoll1 hp => exact ⟨_, .enc hp, rfl⟩
  | poll1Poll1 hp hb hl => exact ⟨_, .pollAgain (.inl hp) hb hl, hp⟩
  | poll1Arm hp hb => exact ⟨_, .poll1Done hp hb, rfl⟩
  | armPoll2 hp => exact ⟨_, .arm hp, rfl⟩
  | poll2Poll2 hp hb hl => exact ⟨_, .pollAgain (.inr hp) hb hl, hp⟩
  | poll2Resp hp hb hm => exact ⟨_, .poll2Done hp hb hm, rfl⟩
  | poll2Clr hp hb hm => exact ⟨_, .poll2Write hp hb hm, rfl⟩
  | respIdle hp =>
    cases hm : s.cmdR with
    | reset => exact ⟨_, .respReset hp hm, rfl⟩
    | ping => exact ⟨_, .respPing hp hm, rfl⟩
    | read => exact ⟨_, .respRead hp hm, rfl⟩
    | write => exact absurd hm (hw hp)
  | timeout hp hb hl => exact ⟨_, .timeout hp hb hl, rfl⟩

/-- Settles O46: the step takes a row of R22, and as own steps are deterministic it takes no other. -/
theorem stepFollowsPhaseGraph : Obligations.StepFollowsPhaseGraph := by
  intro s t ho hs p
  obtain ⟨-, hrow⟩ := ownStep_of_step ho hs
  constructor
  · intro hedge
    obtain ⟨u, hu, rfl⟩ := ownStep_of_phaseEdge hedge hrow.resp_not_write
    rw [ownStep_det hrow hu]
  · rintro rfl
    exact phaseEdge_of_ownStep hrow

/-! ### Requests while the block is busy -/

/-- TICK and TRANSACT on a busy block put the request back on the port (assumption 13). -/
theorem exec_tick_of_busy {s : State} (h : s.ph ≠ .idle) (v : Word) :
    exec (.tick v) s = .next (s.holdRequest (hostReqWord 0 v)) := by
  cases hp : s.ph <;> simp_all [exec, execTick]

theorem exec_transact_of_busy {s : State} (h : s.ph ≠ .idle) (v : Word) :
    exec (.transact v) s = .next (s.holdRequest (hostReqWord 1 v)) := by
  cases hp : s.ph <;> simp_all [exec, execTransact]

/-- Only the rows of an idle block take a request (R28). -/
theorem OwnStep.reqs_of_busy {s t : State} (h : OwnStep s t) (hb : s.ph ≠ .idle) : t.reqs = s.reqs := by
  cases h
  case tick hp _ _ => exact absurd hp hb
  case transact hp _ _ _ => exact absurd hp hb
  case notConnected hp _ _ _ => exact absurd hp hb
  all_goals rfl

/-- `req_ready` is 1 exactly in IDLE (R28, R82). -/
theorem State.reqReady_iff (s : State) : s.reqReady = true ↔ s.ph = .idle := beq_iff_eq

/-- Settles O36: a busy block puts a request back on the port, and no row of its own steps takes one. -/
theorem requestWaitsWhileBusy : Obligations.RequestWaitsWhileBusy :=
  ⟨fun _ v hb => ⟨exec_tick_of_busy hb v, exec_transact_of_busy hb v⟩,
    fun _ _ ho hb hs => (ownStep_of_step ho hs).2.reqs_of_busy hb, State.reqReady_iff⟩

/-! ### Reset -/

/-- The operation bit of a host request (R81). -/
theorem getLsbD_hostReqWord_op (op : BitVec 1) (v : Word) : (hostReqWord op v).getLsbD 32 = op.getLsbD 0 := by
  rw [hostReqWord, BitVec.getLsbD_append]
  rfl

theorem wellFormed_ref : Cfg.ref.wellFormed = true := by decide

/-- A first TICK after reset begins JB_RESET (R222). -/
theorem step_reset_tick (v : Word) :
    ∃ t, step { State.reset with reqs := [hostReqWord 0 v] } = .next t ∧ t.cmdR = .reset ∧ t.ph = .clr :=
  ⟨_, step_of_ownStep ⟨rfl, rfl⟩ wellFormed_ref (.tick _ [] rfl rfl (getLsbD_hostReqWord_op 0 v)), rfl, rfl⟩

/-- A first TRANSACT after reset raises NotConnected (R222, R192). -/
theorem step_reset_transact (v : Word) :
    ∃ t, step { State.reset with reqs := [hostReqWord 1 v] } = .next t ∧
      t.rsp = some ⟨.notConnected, .noEvent, 0⟩ ∧ t.ph = .idle :=
  ⟨_, step_of_ownStep ⟨rfl, rfl⟩ wellFormed_ref
    (.notConnected _ [] rfl rfl (getLsbD_hostReqWord_op 1 v) rfl), rfl, rfl⟩

/-- Settles O44: the reset values by evaluation, and the first request by its row of an own step. -/
theorem resetStateValues : Obligations.ResetStateValues :=
  ⟨rfl, rfl, rfl, rfl, rfl, rfl, rfl, rfl, step_reset_tick, step_reset_transact⟩

theorem Memory.below_nil (bound : Nat) : Memory.below [] bound := List.forall_mem_nil _

/-- An idle block satisfies the invariant when its configuration, its windows and the presented operation do:
every other clause is about a busy phase. -/
theorem State.Inv.of_idle {s : State} (hp : s.ph = .idle) (cfg : s.cfg.wellFormed = true)
    (notPresented : s.presented = none) (ctrlWf : Memory.wf s.ctrl = true) (bufWf : Memory.wf s.buf = true)
    (ctrlBelow : s.ctrl.below (4 * s.cfg.nctrl)) (bufBelow : s.buf.below 128) : s.Inv where
  cfg := cfg
  notPresented := notPresented
  ctrlWf := ctrlWf
  bufWf := bufWf
  ctrlBelow := ctrlBelow
  bufBelow := bufBelow
  op := absurd hp
  clr := by simp [hp]
  fill1 := by simp [hp]
  errclr := by simp [hp]
  resp := by simp [hp]
  cw := by simp [hp]
  count := by simp [hp]
  reads := by simp [hp]

/-- Settles O45: the reset state is idle, and neither window has been written. -/
theorem resetStateHasInvariant : Obligations.ResetStateHasInvariant :=
  .of_idle rfl wellFormed_ref rfl rfl rfl (Memory.below_nil _) (Memory.below_nil _)

end Sys2Proof.Machine
end

section
/-! SUPPORT. The invariant of the machine (R53, R22, R26, R145) as three parts, each kept by every row of an own step:
the record of the windows, the operation in service, and what holds in the phase. -/

namespace Sys2Proof.Machine

/-! ### The parts of the invariant -/

/-- What the invariant says of the configuration and the windows, in every phase. -/
structure State.WindowsInv (s : State) : Prop where
  cfg : s.cfg.wellFormed = true
  notPresented : s.presented = none
  ctrlWf : Memory.wf s.ctrl = true
  bufWf : Memory.wf s.buf = true
  ctrlBelow : s.ctrl.below (4 * s.cfg.nctrl)
  bufBelow : s.buf.below 128

/-- The read counts of a poll loop that goes on (R30, R145). -/
def PollCounts (c : Cfg) (n reads : Nat) : Prop :=
  (∀ m ∈ c.pollLimit, n < m) ∧ (c.pollLimit ≠ none → reads = n)

/-- What the invariant says of the phase the block is in. -/
def State.PhaseInv (s : State) : Prop :=
  match s.ph with
  | .idle | .fill0 | .enc => True
  | .clr => s.k.toNat < s.cmdR.nClr s.cfg
  | .fill1 => s.cmdR = .write
  | .errclr => s.cmdR = .read ∨ s.cmdR = .write
  | .poll1 | .poll2 => s.cwR = commandWord s.cfg s.cmdR ∧ PollCounts s.cfg s.n s.loopReads
  | .arm => s.cwR = commandWord s.cfg s.cmdR
  | .resp => s.cmdR ≠ .write

theorem State.Inv.windows {s : State} (h : s.Inv) : s.WindowsInv :=
  ⟨h.cfg, h.notPresented, h.ctrlWf, h.bufWf, h.ctrlBelow, h.bufBelow⟩

theorem State.Inv.phase {s : State} (h : s.Inv) : s.PhaseInv := by
  cases hp : s.ph <;> simp only [State.PhaseInv, hp]
  case clr => exact h.clr hp
  case fill1 => exact h.fill1 hp
  case errclr => exact h.errclr hp
  case poll1 => exact ⟨h.cw (.inl hp), h.count (.inl hp), h.reads (.inl hp)⟩
  case arm => exact h.cw (.inr (.inl hp))
  case poll2 => exact ⟨h.cw (.inr (.inr hp)), h.count (.inr hp), h.reads (.inr hp)⟩
  case resp => exact h.resp hp

/-- The three parts make the invariant. -/
theorem State.Inv.of_parts {s : State} (hw : s.WindowsInv) (op : s.ph ≠ .idle → s.opMatches) (hp : s.PhaseInv) :
    s.Inv where
  cfg := hw.cfg
  notPresented := hw.notPresented
  ctrlWf := hw.ctrlWf
  bufWf := hw.bufWf
  ctrlBelow := hw.ctrlBelow
  bufBelow := hw.bufBelow
  op := op
  clr h := by simpa only [State.PhaseInv, h] using hp
  fill1 h := by simpa only [State.PhaseInv, h] using hp
  errclr h := by simpa only [State.PhaseInv, h] using hp
  resp h := by simpa only [State.PhaseInv, h] using hp
  cw h := by obtain h | h | h := h <;> simp only [State.PhaseInv, h] at hp <;> simp only [hp]
  count h := by obtain h | h := h <;> simp only [State.PhaseInv, h] at hp <;> exact hp.2.1
  reads h := by obtain h | h := h <;> simp only [State.PhaseInv, h] at hp <;> exact hp.2.2

/-! ### The windows -/

/-- A step that stores one word below NCTRL in the control window keeps the record of the windows. -/
theorem State.WindowsInv.of_storeCtrl {s t : State} (h : s.WindowsInv) {i : BitVec 5} {v : Word}
    (hi : i.toNat < s.cfg.nctrl) (hcfg : t.cfg = s.cfg) (hpr : t.presented = s.presented)
    (hctrl : t.ctrl = Memory.storeWord ctrlLanes s.ctrl i.toNat v) (hbuf : t.buf = s.buf) : t.WindowsInv where
  cfg := hcfg ▸ h.cfg
  notPresented := hpr ▸ h.notPresented
  ctrlWf := hctrl ▸ Memory.wf_storeWord _ _ _ _ h.ctrlWf
  bufWf := hbuf ▸ h.bufWf
  ctrlBelow := hctrl ▸ hcfg ▸ Memory.below_storeWord _ _ _ _ _ h.ctrlBelow hi
  bufBelow := hbuf ▸ h.bufBelow

/-- So does one that stores a word in the buffer, where every index of 5 bits is inside the window (R85). -/
theorem State.WindowsInv.of_storeBuf {s t : State} (h : s.WindowsInv) (i : BitVec 5) {v : Word}
    (hcfg : t.cfg = s.cfg) (hpr : t.presented = s.presented)
    (hbuf : t.buf = Memory.storeWord s.cfg.laneOrder s.buf i.toNat v) (hctrl : t.ctrl = s.ctrl) : t.WindowsInv where
  cfg := hcfg ▸ h.cfg
  notPresented := hpr ▸ h.notPresented
  ctrlWf := hctrl ▸ h.ctrlWf
  bufWf := hbuf ▸ Memory.wf_storeWord _ _ _ _ h.bufWf
  ctrlBelow := hctrl ▸ hcfg ▸ h.ctrlBelow
  bufBelow := hbuf ▸ Memory.below_storeWord _ _ _ 32 _ h.bufBelow i.isLt

/-- Every row of an own step stores at most one word, at an index of CFG or in the buffer (R53). -/
theorem OwnStep.keepsWindowsInv {s t : State} (h : OwnStep s t) (hw : s.WindowsInv) : t.WindowsInv := by
  obtain ⟨hcw, hstatus, herrclr, -⟩ := wf_indices hw.cfg
  cases h
  case clearMore => exact hw.of_storeBuf s.k rfl rfl rfl rfl
  case clearLast => exact hw.of_storeBuf s.k rfl rfl rfl rfl
  case fill0 => exact hw.of_storeBuf 0 rfl rfl rfl rfl
  case fill1 => exact hw.of_storeBuf 1 rfl rfl rfl rfl
  case errclr => exact hw.of_storeCtrl herrclr rfl rfl rfl rfl
  case enc => exact hw.of_storeCtrl hstatus rfl rfl rfl rfl
  case arm => exact hw.of_storeCtrl hcw rfl rfl rfl rfl
  all_goals exact ⟨hw.cfg, hw.notPresented, hw.ctrlWf, hw.bufWf, hw.ctrlBelow, hw.bufBelow⟩

/-! ### The operation in service -/

theorem tickCommand_ne_write (c : Conn) : tickCommand c ≠ .write := by cases c <;> decide

/-- JB_WRITE is in progress only for a TRANSACT while Connected (R22). -/
theorem State.opMatches.of_write {s : State} (h : s.opMatches) (hm : s.cmdR = .write) :
    s.opR = .transact ∧ s.conn = .connected := by
  cases ho : s.opR with
  | tick =>
    simp only [State.opMatches, ho, hm] at h
    exact absurd h.symm (tickCommand_ne_write _)
  | transact =>
    simp only [State.opMatches, ho] at h
    exact ⟨rfl, h.1⟩

/-- The rows that accept a request and the hand-over of JB_WRITE to JB_READ latch a command of their operation; a row
that ends the operation leads to IDLE; and no other row touches it (R22, R170). -/
theorem OwnStep.keepsOpMatches {s t : State} (h : OwnStep s t) (hop : s.ph ≠ .idle → s.opMatches)
    (ht : t.ph ≠ .idle) : t.opMatches := by
  have hbusy {p : Phase} (hp : s.ph = p) (hne : p ≠ .idle) : s.opMatches := hop (hp ▸ hne)
  cases h
  case wait hp _ => exact absurd hp ht
  case notConnected hp _ _ _ => exact absurd hp ht
  case timeout => exact absurd rfl ht
  case respReset => exact absurd rfl ht
  case respPing => exact absurd rfl ht
  case respRead => exact absurd rfl ht
  case tick => exact rfl
  case transact hn => exact ⟨hn, .inl rfl⟩
  case poll2Write hp _ hm =>
    obtain ⟨ho, hn⟩ := (hbusy hp (by decide)).of_write hm
    simp [State.opMatches, ho, hn]
  case pollAgain hp _ _ => obtain hp | hp := hp <;> exact hbusy hp (by decide)
  all_goals exact hbusy ‹s.ph = _› (by decide)

/-! ### The phase -/

theorem Command.nClr_pos {cfg : Cfg} (h : cfg.wellFormed = true) (c : Command) : 0 < c.nClr cfg := by
  obtain hc | hc := c.nClr_cases h <;> omega

/-- The next word to clear is one of the `N_clr` words when the one before it was not the last: `k` does not wrap. -/
theorem k_succ_lt_nClr {cfg : Cfg} (h : cfg.wellFormed = true) {c : Command} {k : BitVec 5}
    (hk : k.toNat < c.nClr cfg) (hne : k.toNat + 1 ≠ c.nClr cfg) : (k + 1).toNat < c.nClr cfg := by
  have hle : c.nClr cfg ≤ 32 := by obtain hc | hc := c.nClr_cases h <;> omega
  rw [BitVec.toNat_add_of_lt (by simp; omega)]
  simp
  omega

theorem pollCounts_none {c : Cfg} (h : c.pollLimit = none) (n reads : Nat) : PollCounts c n reads := by
  simp [PollCounts, h]

theorem pollCounts_some {c : Cfg} {m : Nat} (h : c.pollLimit = some m) (n reads : Nat) :
    PollCounts c n reads ↔ n < m ∧ reads = n := by
  simp [PollCounts, h]

/-- Both counts are 0 at the entry of a poll loop, and the bound is not (R8, R145). -/
theorem pollCounts_fresh {s : State} (h : s.cfg.wellFormed = true) :
    PollCounts s.cfg s.freshCount s.freshReads := by
  cases hl : s.cfg.pollLimit with
  | none => exact pollCounts_none hl _ _
  | some m =>
    have hpos : 0 < m := wf_pollLimit_pos h m hl
    simpa [pollCounts_some hl, State.freshCount, State.freshReads, hl] using hpos

/-- A busy read that is not the last one allowed counts once in both counts and stays below the bound (R30, R145). -/
theorem PollCounts.of_not_lastPoll {s : State} (h : PollCounts s.cfg s.n s.loopReads) (hl : ¬ s.lastPoll) :
    PollCounts s.cfg s.countedBusy s.countedReads := by
  cases hp : s.cfg.pollLimit with
  | none => exact pollCounts_none hp _ _
  | some m =>
    obtain ⟨hn, hr⟩ := (pollCounts_some hp _ _).1 h
    have hne : m ≠ s.n + 1 := fun e => hl (hp.trans (congrArg some e))
    have hlt : s.n + 1 < m := by omega
    simpa [pollCounts_some hp, State.countedBusy, State.countedReads, hp, hr] using hlt

/-- FILL0 leads to FILL1 and ERRCLR only for the commands that reach them (R22, R153). -/
theorem State.PhaseInv.of_afterFill0 {s : State} (h : s.ph = afterFill0 s.cmdR) : s.PhaseInv := by
  cases hm : s.cmdR <;> rw [hm] at h <;> simp [State.PhaseInv, h, hm, afterFill0]

/-- What holds in the next phase follows from the condition of the row and from what held in the phase before. -/
theorem OwnStep.phaseInv {s t : State} (h : OwnStep s t) (hc : s.cfg.wellFormed = true) (hp : s.PhaseInv) :
    t.PhaseInv := by
  have hat {p : Phase} (e : s.ph = p) : State.PhaseInv { s with ph := p } := e ▸ hp
  cases h
  case wait e _ => simp only [State.PhaseInv, e]
  case tick => exact Command.nClr_pos hc _
  case transact => exact Command.nClr_pos hc _
  case notConnected e _ _ _ => simp only [State.PhaseInv, e]
  case clearMore e hne =>
    simp only [State.PhaseInv, e] at hp ⊢
    exact k_succ_lt_nClr hc hp hne
  case fill0 => exact .of_afterFill0 rfl
  case fill1 e => exact .inr (hat e)
  case enc => exact ⟨rfl, pollCounts_fresh hc⟩
  case pollAgain e _ hl =>
    obtain e | e := e <;> simp only [State.PhaseInv, e] at hp ⊢ <;> exact ⟨hp.1, hp.2.of_not_lastPoll hl⟩
  case poll1Done e _ => exact (hat e).1
  case arm e => exact ⟨hat e, pollCounts_fresh hc⟩
  case poll2Write => exact Command.nClr_pos hc _
  case poll2Done hm => exact hm
  all_goals trivial

/-- Settles O47: a reset edge leads to an idle block with the windows as they were, and an own step keeps the three
parts of the invariant. -/
theorem stepKeepsInvariant : Obligations.StepKeepsInvariant := by
  intro s t h hs
  cases hr : s.rst with
  | true =>
    rw [step_of_rst hr] at hs
    cases hs
    exact .of_idle rfl h.cfg h.notPresented h.ctrlWf h.bufWf h.ctrlBelow h.bufBelow
  | false =>
    obtain ⟨hc, hrow⟩ := ownStep_of_step ⟨hr, h.notPresented⟩ hs
    exact .of_parts (hrow.keepsWindowsInv h.windows) (hrow.keepsOpMatches h.op) (hrow.phaseInv hc h.phase)

end Sys2Proof.Machine
end

section
/-! SUPPORT. The accesses of the sequencer (R53): the phase fixes the one access of an own step, its port, its index
and its word. -/

namespace Sys2Proof.Machine

/-- The access that an own step makes in the phase the block is in (R53, R152 to R157, R141 to R143). -/
def State.phaseAccess (s : State) : Option Access :=
  match s.ph with
  | .idle => none
  | .clr => some (.writeBuffer s.k 0)
  | .fill0 => some (.writeBuffer 0 (word0 s.cfg s.cmdR s.valR))
  | .fill1 => some (.writeBuffer 1 (word1 s.cfg s.valR))
  | .errclr => some (.writeControl s.cfg.errclrIndex s.cfg.errclrValue)
  | .enc => some (.writeControl s.cfg.statusIndex s.cfg.statusClearValue)
  | .poll1 | .poll2 => some (.readControl s.cfg.pollIndex s.nextAnswer)
  | .arm => some (.writeControl s.cfg.cwIndex s.cwR)
  | .resp => some (.readBuffer 0 s.nextAnswer)

theorem OwnStep.rp_eq {s t : State} (h : OwnStep s t) : t.rp = s.phaseAccess := by
  unfold State.phaseAccess
  cases h
  case pollAgain hp _ _ => obtain hp | hp := hp <;> rw [hp]
  case timeout hp _ _ => obtain hp | hp := hp <;> rw [hp]
  all_goals simp only [*]

section
variable {s : State}

theorem State.phaseAccess_writeControl {i : BitVec 5} {v : Word} (h : s.phaseAccess = some (.writeControl i v)) :
    (s.ph = .arm ∧ i = s.cfg.cwIndex ∧ v = s.cwR) ∨
    (s.ph = .enc ∧ i = s.cfg.statusIndex ∧ v = s.cfg.statusClearValue) ∨
    (s.ph = .errclr ∧ i = s.cfg.errclrIndex ∧ v = s.cfg.errclrValue) := by
  cases hp : s.ph <;> simp_all [State.phaseAccess]

theorem State.phaseAccess_readControl {i : BitVec 5} {r : Word} (h : s.phaseAccess = some (.readControl i r)) :
    (s.ph = .poll1 ∨ s.ph = .poll2) ∧ i = s.cfg.pollIndex := by
  cases hp : s.ph <;> simp_all [State.phaseAccess]

theorem State.phaseAccess_writeBuffer {i : BitVec 5} {v : Word} (h : s.phaseAccess = some (.writeBuffer i v)) :
    s.ph = .clr ∨ s.ph = .fill0 ∨ s.ph = .fill1 := by
  cases hp : s.ph <;> simp_all [State.phaseAccess]

theorem State.phaseAccess_readBuffer {i : BitVec 5} {r : Word} (h : s.phaseAccess = some (.readBuffer i r)) :
    s.ph = .resp ∧ i = 0 := by
  cases hp : s.ph <;> simp_all [State.phaseAccess]

end

/-- Settles O53: the access of an own step is that of its phase, and in ARM `cw_r` is the control word of the command
(R26). -/
theorem onlySequencerAccessesEmitted : Obligations.OnlySequencerAccessesEmitted := by
  intro s t h hr hs
  have hrp : t.rp = s.phaseAccess := (ownStep_of_step ⟨hr, h.notPresented⟩ hs).2.rp_eq
  rw [hrp]
  refine ⟨fun i v ha => ?_, fun i r ha => State.phaseAccess_readControl ha,
    fun i v ha => State.phaseAccess_writeBuffer ha, fun i r ha => State.phaseAccess_readBuffer ha⟩
  obtain ⟨hp, hi, hv⟩ | hw := State.phaseAccess_writeControl ha
  · exact .inl ⟨hp, hi, hv.trans (h.cw (.inr (.inl hp)))⟩
  · exact .inr hw

end Sys2Proof.Machine
end

section
/-! SUPPORT. The order of the bytes (R55 to R58): the frame in the lanes of the buffer words, and the Link Value as it
comes back. -/

namespace Sys2Proof.Machine

/-! ### The lanes of a packed word -/

theorem laneByte_or (o : LaneOrder) (v w : Word) (k : Nat) :
    laneByte o (v ||| w) k = laneByte o v k ||| laneByte o w k := BitVec.extractLsb'_or

@[simp] theorem laneByte_zero (o : LaneOrder) (k : Nat) : laneByte o 0#32 k = 0#8 := by
  simp [laneByte]

/-- Two bytes of a word stand in the same lane, or their lanes share no bit (R55). -/
theorem laneLo_cases (o : LaneOrder) (i k : Nat) :
    (i % 4 = k % 4 ∧ laneLo o i = laneLo o k) ∨
    (i % 4 ≠ k % 4 ∧ (laneLo o i + 8 ≤ laneLo o k ∨ laneLo o k + 8 ≤ laneLo o i)) := by
  cases o <;> simp only [laneLo] <;> omega

theorem laneLo_le (o : LaneOrder) (k : Nat) : laneLo o k ≤ 24 := by
  cases o <;> simp only [laneLo] <;> omega

/-- Lanes are 8 bits apart, so the lane of byte `k` of a word shows a byte put into the lane of `i` only where the two
are the same lane. -/
theorem laneByte_shiftLeft (o : LaneOrder) (b : Byte) (i k : Nat) :
    laneByte o (b.setWidth 32 <<< laneLo o i) k = if i % 4 = k % 4 then b else 0 := by
  have hk := laneLo_le o k
  refine BitVec.eq_of_getLsbD_eq fun j hj => ?_
  simp only [laneByte, BitVec.getLsbD_extractLsb', BitVec.getLsbD_shiftLeft, BitVec.getLsbD_setWidth]
  obtain ⟨hik, hlo⟩ | ⟨hik, hlo | hlo⟩ := laneLo_cases o i k
  · have hj' : laneLo o k + j < 32 := by omega
    have hj'' : j < 32 := by omega
    simp [hik, hlo, hj, hj', hj'']
  · simp [hik, BitVec.getLsbD_of_ge b (laneLo o k + j - laneLo o i) (by omega)]
  · have hj' : laneLo o k + j < laneLo o i := by omega
    simp [hik, hj']

/-- Byte `k` of a frame, 0 past its end (R56). -/
def frameByte (f : List Byte) (k : Nat) : Byte := f[k]?.getD 0

theorem laneByte_packLane (o : LaneOrder) (f : List Byte) (i k : Nat) :
    laneByte o (packLane o f i) k = if i % 4 = k % 4 then frameByte f i else 0 := by
  unfold packLane frameByte
  split
  case h_1 b hb => simp [laneByte_shiftLeft, hb]
  case h_2 hb => simp [hb]

/-- Lane `k` of the word packed for buffer index `j` is byte `4 * j + k` of the frame, and 0 past its end (R56). -/
theorem laneByte_pack (o : LaneOrder) (f : List Byte) (j : Nat) {k : Nat} (hk : k < 4) :
    laneByte o (pack o f j) k = frameByte f (4 * j + k) := by
  simp only [pack, laneByte_or, laneByte_packLane]
  interval_cases k <;> simp [Nat.add_mod]

/-! ### Wire bytes after a write to the buffer -/

theorem wireByte_writeBuffer_lane (i : BitVec 5) (v : Word) (s : State) {k : Nat} (hk : k < 4) :
    (writeBuffer i v s).wireByte (4 * i.toNat + k) = some (laneByte s.cfg.laneOrder v k) :=
  (Memory.storedWord_storeWord _ _ _ _).1 k hk

theorem wireByte_writeBuffer_other (i : BitVec 5) (v : Word) (s : State) {a : Nat}
    (ha : a < 4 * i.toNat ∨ 4 * i.toNat + 4 ≤ a) : (writeBuffer i v s).wireByte a = s.wireByte a :=
  (Memory.storedWord_storeWord _ _ _ _).2 a ha

/-! ### The frame of JB_WRITE in the buffer -/

theorem fill0Step_wireByte (s : State) (a : Nat) :
    (fill0Step s).wireByte a = (writeBuffer 0 (word0 s.cfg s.cmdR s.valR) s).wireByte a := rfl

theorem fill1Step_wireByte (s : State) (a : Nat) :
    (fill1Step s).wireByte a = (writeBuffer 1 (word1 s.cfg s.valR) s).wireByte a := rfl

/-- FILL0 puts the first four bytes of the command's frame on the wire (R153). -/
theorem wireByte_fill0Step (s : State) {k : Nat} (hk : k < 4) :
    (fill0Step s).wireByte k = some (frameByte (s.cmdR.frame s.valR) k) := by
  have h := wireByte_writeBuffer_lane 0 (word0 s.cfg s.cmdR s.valR) s hk
  rw [← fill0Step_wireByte, word0, laneByte_pack _ _ _ hk] at h
  simpa using h

theorem wireByte_fill0Step_other (s : State) {a : Nat} (ha : 4 ≤ a) : (fill0Step s).wireByte a = s.wireByte a :=
  wireByte_writeBuffer_other 0 _ s (.inr ha)

/-- FILL1 puts the next four bytes of the frame of JB_WRITE on the wire (R154). -/
theorem wireByte_fill1Step (s : State) {k : Nat} (hk : k < 4) :
    (fill1Step s).wireByte (4 + k) = some (frameByte (Command.frame .write s.valR) (4 + k)) := by
  have h := wireByte_writeBuffer_lane 1 (word1 s.cfg s.valR) s hk
  rw [← fill1Step_wireByte, word1, laneByte_pack _ _ _ hk] at h
  simpa using h

theorem wireByte_fill1Step_other (s : State) {a : Nat} (ha : a < 4 ∨ 8 ≤ a) :
    (fill1Step s).wireByte a = s.wireByte a :=
  wireByte_writeBuffer_other 1 _ s ha

/-- After the two fill steps of JB_WRITE its frame stands in the first eight wire bytes, 0 past its end. -/
theorem wireByte_fills {s : State} (hm : s.cmdR = .write) {k : Nat} (hk : k < 8) :
    (fill1Step (fill0Step s)).wireByte k = some (frameByte (Command.frame .write s.valR) k) := by
  by_cases h4 : k < 4
  · rw [wireByte_fill1Step_other _ (.inl h4), wireByte_fill0Step s h4, hm]
  · obtain ⟨j, rfl⟩ := Nat.exists_eq_add_of_le (Nat.le_of_not_lt h4)
    exact wireByte_fill1Step (fill0Step s) (by omega)

/-- JB_WRITE in progress takes the step of its phase (R151). -/
theorem exec_jbWrite_of_busy {s : State} (hm : s.cmdR = .write) (hp : s.ph ≠ .idle) :
    exec (.jbWrite s.valR) s = phaseStep s := by
  have h := exec_command hp
  rwa [hm] at h

/-- Settles O31: the two steps are the fill steps, and the bytes of the frame are read off it one by one. -/
theorem writeFrameOnTheWire : Obligations.WriteFrameOnTheWire := by
  intro s hp hm
  have hp1 : (fill0Step s).ph = .fill1 := congrArg afterFill0 hm
  have h0 : exec (.jbWrite s.valR) s = .next (fill0Step s) := by
    rw [exec_jbWrite_of_busy hm (by simp [hp]), phaseStep, hp]
  have h1 : exec (.jbWrite s.valR) (fill0Step s) = .next (fill1Step (fill0Step s)) := by
    refine (exec_jbWrite_of_busy (s := fill0Step s) hm (by simp [hp1])).trans ?_
    rw [phaseStep, hp1]
  refine ⟨_, _, h0, h1, ?_⟩
  have hw {k : Nat} (hk : k < 8) := wireByte_fills hm hk
  refine ⟨hw (by decide), hw (by decide), hw (by decide), hw (by decide), hw (by decide), hw (by decide),
    hw (by decide), hw (by decide), fun a ha => ?_⟩
  rw [wireByte_fill1Step_other _ (.inr ha), wireByte_fill0Step_other s (by omega)]

/-! ### The Link Value as it comes back -/

/-- Byte `j` of the swapped word is byte `3 - j` of the word (R120). -/
theorem extractLsb'_swap32 (x : Word) {j : Nat} (hj : j < 4) :
    (swap32 x).extractLsb' (8 * j) 8 = x.extractLsb' (24 - 8 * j) 8 := by
  refine BitVec.eq_of_getLsbD_eq fun b hb => ?_
  simp only [swap32, BitVec.getLsbD_extractLsb', BitVec.getLsbD_append]
  interval_cases j <;> grind

/-- JB_READ in RESP takes the RESP step, which finishes the TRANSACT (R157, R175). -/
theorem exec_jbRead_of_resp {s : State} (hp : s.ph = .resp) (hm : s.cmdR = .read) :
    exec .jbRead s =
      .next (finishTransact s.nextAnswer { readBuffer 0 s with rwR := s.nextAnswer, ph := .idle }) := by
  have h := exec_command (s := s) (by simp [hp])
  rwa [hm, phaseStep, hp, respStep, hm] at h

/-- Settles O27: the response of the finished TRANSACT is the word read with its bytes reversed. -/
theorem readResponseReturnsSwappedWord : Obligations.ReadResponseReturnsSwappedWord := by
  intro s hp hm
  exact ⟨_, exec_jbRead_of_resp hp hm, rfl, rfl, rfl, ⟨swap32 s.nextAnswer, rfl, fun _ => extractLsb'_swap32 _⟩,
    fun _ => rfl, fun _ => rfl, rfl⟩

end Sys2Proof.Machine
end

section
/-! SUPPORT. The fields of a control word, read back (R33, R135): each shows the operand that ENCODE puts there, and no
other bit is set. -/

namespace Sys2Proof.Machine

/-! ### What stands in a field -/

/-- What stands in a field of a word, as a word. -/
def fieldValue (f : Nat × Nat) (w : Word) : Word := (w.extractLsb' f.1 f.2).setWidth 32

theorem getLsbD_fieldValue (f : Nat × Nat) (w : Word) {b : Nat} (hb : b < 32) :
    (fieldValue f w).getLsbD b = (decide (b < f.2) && w.getLsbD (f.1 + b)) := by
  simp [fieldValue, hb]

theorem toNat_fieldValue_lt (f : Nat × Nat) (w : Word) : (fieldValue f w).toNat < 2 ^ f.2 := by
  rw [fieldValue, BitVec.toNat_setWidth]
  exact (Nat.mod_le _ _).trans_lt (w.extractLsb' f.1 f.2).isLt

theorem fieldValue_or (f : Nat × Nat) (v w : Word) : fieldValue f (v ||| w) = fieldValue f v ||| fieldValue f w := by
  rw [fieldValue, BitVec.extractLsb'_or, BitVec.setWidth_or]
  rfl

theorem fieldValue_zero (f : Nat × Nat) : fieldValue f 0#32 = 0#32 := by simp [fieldValue]

/-- An operand that fits has no bit at or above the width of its field. -/
theorem FitsField.getLsbD_of_ge {f : Nat × Nat} {v : Word} (h : FitsField f v) {b : Nat} (hb : f.2 ≤ b) :
    v.getLsbD b = false := by
  rw [← BitVec.testBit_toNat]
  exact Nat.testBit_lt_two_pow (h.1.trans_le (Nat.pow_le_pow_right two_pos hb))

theorem FitsField.fieldValue_same {f : Nat × Nat} {v : Word} (h : FitsField f v) : fieldValue f (v <<< f.1) = v := by
  refine BitVec.eq_of_getLsbD_eq fun b hb => ?_
  rw [getLsbD_fieldValue _ _ hb]
  by_cases hw : b < f.2
  · have hin : f.1 + b < 32 := by have := h.2; omega
    simp [hw, hin, BitVec.getLsbD_eq_getElem hb]
  · simp [hw, h.getLsbD_of_ge (Nat.le_of_not_lt hw)]

theorem FitsField.fieldValue_other {f g : Nat × Nat} {v : Word} (h : FitsField f v) (hd : fieldsDisjoint f g) :
    fieldValue g (v <<< f.1) = 0#32 := by
  refine BitVec.eq_of_getLsbD_eq fun b hb => ?_
  rw [getLsbD_fieldValue _ _ hb]
  by_cases hw : b < g.2
  · obtain hd | hd := hd
    · simp [h.getLsbD_of_ge (show f.2 ≤ g.1 + b - f.1 by omega)]
    · simp [show g.1 + b < f.1 by omega]
  · simp [hw]

/-! ### The OR of disjoint fields -/

/-- The OR of operands shifted into their fields. -/
def orFields (fvs : List ((Nat × Nat) × Word)) : Word := (fvs.map fun p => p.2 <<< p.1.1).foldr (· ||| ·) 0#32

theorem orFields_cons (p : (Nat × Nat) × Word) (fvs : List ((Nat × Nat) × Word)) :
    orFields (p :: fvs) = p.2 <<< p.1.1 ||| orFields fvs := rfl

theorem fieldValue_orFields_other {fvs : List ((Nat × Nat) × Word)} (hfit : ∀ p ∈ fvs, FitsField p.1 p.2)
    {g : Nat × Nat} (hd : ∀ p ∈ fvs, fieldsDisjoint p.1 g) : fieldValue g (orFields fvs) = 0#32 := by
  induction fvs with
  | nil => exact fieldValue_zero g
  | cons p fvs ih =>
    obtain ⟨hp, hfit⟩ := List.forall_mem_cons.1 hfit
    obtain ⟨hpg, hd⟩ := List.forall_mem_cons.1 hd
    rw [orFields_cons, fieldValue_or, hp.fieldValue_other hpg, ih hfit hd, BitVec.or_zero]

/-- A field of the OR of disjoint fields shows the operand that was put there. -/
theorem fieldValue_orFields {fvs : List ((Nat × Nat) × Word)} (hfit : ∀ p ∈ fvs, FitsField p.1 p.2)
    (hd : (fvs.map Prod.fst).Pairwise fieldsDisjoint) {p : (Nat × Nat) × Word} (hp : p ∈ fvs) :
    fieldValue p.1 (orFields fvs) = p.2 := by
  induction fvs with
  | nil => cases hp
  | cons q fvs ih =>
    obtain ⟨hq, hfit'⟩ := List.forall_mem_cons.1 hfit
    obtain ⟨hqd, hd'⟩ := List.pairwise_cons.1 hd
    have hdisj : ∀ r ∈ fvs, fieldsDisjoint q.1 r.1 := List.forall_mem_map.1 hqd
    rw [orFields_cons, fieldValue_or]
    cases hp with
    | head =>
      rw [hq.fieldValue_same, fieldValue_orFields_other hfit' fun r hr => (hdisj r hr).symm, BitVec.or_zero]
    | tail _ hp => rw [hq.fieldValue_other (hdisj p hp), ih hfit' hd' hp, BitVec.zero_or]

/-! ### The control word -/

theorem encodeWord_eq_orFields (c : Cfg) (channel inputLen outputLen : Word) :
    encodeWord c channel inputLen outputLen = orFields (encodeFields c channel inputLen outputLen) :=
  encodeWord_eq_foldr c channel inputLen outputLen

section
variable {c : Cfg} (h : c.wellFormed = true) (channel inputLen outputLen : Word)
include h

/-- Each of the seven fields of the control word shows the operand that ENCODE puts there (R130, R135). -/
theorem fieldValue_encodeWord {p : (Nat × Nat) × Word} (hp : p ∈ encodeFields c channel inputLen outputLen) :
    fieldValue p.1 (encodeWord c channel inputLen outputLen) = p.2 := by
  obtain ⟨-, -, -, hd, -⟩ := (wellFormed_iff c).1 h
  rw [encodeWord_eq_orFields]
  exact fieldValue_orFields (encodeFields_fit h channel inputLen outputLen) hd hp

theorem cwChannel_encodeWord : cwChannel c (encodeWord c channel inputLen outputLen) = maskChannel channel :=
  fieldValue_encodeWord h channel inputLen outputLen (p := ((c.posChsel, 2), maskChannel channel))
    (by simp [encodeFields, Cfg.fields])

theorem cwMirror_encodeWord : cwMirror c (encodeWord c channel inputLen outputLen) = maskChannel channel :=
  fieldValue_encodeWord h channel inputLen outputLen (p := ((c.posChdup, 2), maskChannel channel))
    (by simp [encodeFields, Cfg.fields])

theorem cwInputLen_encodeWord : cwInputLen c (encodeWord c channel inputLen outputLen) = maskLength inputLen :=
  fieldValue_encodeWord h channel inputLen outputLen (p := ((c.posInlen, 7), maskLength inputLen))
    (by simp [encodeFields, Cfg.fields])

theorem cwOutputLen_encodeWord : cwOutputLen c (encodeWord c channel inputLen outputLen) = maskLength outputLen :=
  fieldValue_encodeWord h channel inputLen outputLen (p := ((c.posOutlen, 7), maskLength outputLen))
    (by simp [encodeFields, Cfg.fields])

/-- The flags CHEN, CMDEN and START are set (R130). -/
theorem encodeWord_flags : (encodeWord c channel inputLen outputLen).getLsbD c.posChen = true ∧
    (encodeWord c channel inputLen outputLen).getLsbD c.posCmden = true ∧
    (encodeWord c channel inputLen outputLen).getLsbD c.posStart = true := by
  simp only [getLsbD_encodeWord h, decide_true, Bool.true_or, Bool.or_true, and_self]

/-- Every bit outside the seven fields is 0 (R33, R130). -/
theorem encodeWord_unnamed_bit {b : Nat} (hb : ∀ f ∈ c.fields, b < f.1 ∨ f.1 + f.2 ≤ b) :
    (encodeWord c channel inputLen outputLen).getLsbD b = false := by
  have hfield {p w : Nat} (hp : b < p ∨ p + w ≤ b) : decide (p ≤ b ∧ b < p + w) = false :=
    decide_eq_false (by omega)
  have hflag {p : Nat} (hp : b < p ∨ p + 1 ≤ b) : decide (b = p) = false := decide_eq_false (by omega)
  simp only [Cfg.fields, List.forall_mem_cons] at hb
  obtain ⟨hchsel, hchen, houtlen, hinlen, hcmden, hchdup, hstart, -⟩ := hb
  simp only [getLsbD_encodeWord h, hfield hchsel, hflag hchen, hfield houtlen, hfield hinlen, hflag hcmden,
    hfield hchdup, hflag hstart, Bool.false_and, Bool.or_false]

end

/-! ### The masks of ENCODE -/

theorem maskChannel_of_lt {x : Word} (h : x.toNat < 4) : maskChannel x = x :=
  BitVec.eq_of_toNat_eq (by rw [toNat_maskChannel, Nat.mod_eq_of_lt h])

theorem maskLength_of_lt {x : Word} (h : x.toNat < 128) : maskLength x = x :=
  BitVec.eq_of_toNat_eq (by rw [toNat_maskLength, Nat.mod_eq_of_lt h])

/-! ### The control word, decoded -/

/-- The decoder reads back the word that ENCODE produces, whose operands fit their fields (R10, R135). -/
theorem decodeControlWord_encodeWord {c : Cfg} (h : c.wellFormed = true) {channel inputLen outputLen : Word}
    (hchan : channel.toNat < 4) (hin : inputLen.toNat < 128) (hout : outputLen.toNat < 128) :
    decodeControlWord c (encodeWord c channel inputLen outputLen) = .ok (.encode channel inputLen outputLen) := by
  simp [decodeControlWord, cwChannel_encodeWord h, cwMirror_encodeWord h, cwInputLen_encodeWord h,
    cwOutputLen_encodeWord h, maskChannel_of_lt hchan, maskLength_of_lt hin, maskLength_of_lt hout]

/-- A control word is decoded exactly as the ENCODE that produces it, on the operands read from its fields. -/
theorem decodeControlWord_eq_ok {c : Cfg} {w : Word} {i : Instr} (h : decodeControlWord c w = .ok i) :
    i = .encode (cwChannel c w) (cwInputLen c w) (cwOutputLen c w) ∧
      w = encodeWord c (cwChannel c w) (cwInputLen c w) (cwOutputLen c w) := by
  unfold decodeControlWord at h
  split at h
  · cases h
  · split at h <;> cases h
    exact ⟨rfl, not_ne_iff.1 ‹_›⟩

/-- The operands that a control word holds fit their fields, whatever the word (R135). -/
theorem encode_cw_wellFormed (c : Cfg) (w : Word) :
    (Instr.encode (cwChannel c w) (cwInputLen c w) (cwOutputLen c w)).wellFormed c = true :=
  decide_eq_true ⟨toNat_fieldValue_lt (c.posChsel, 2) w, toNat_fieldValue_lt (c.posInlen, 7) w,
    toNat_fieldValue_lt (c.posOutlen, 7) w⟩

theorem cwChannel_eq_cwMirror_iff (c : Cfg) (w : Word) :
    cwChannel c w = cwMirror c w ↔ w.extractLsb' c.posChsel 2 = w.extractLsb' c.posChdup 2 :=
  ⟨fun h => by simpa [cwChannel, cwMirror] using congrArg (BitVec.setWidth 2) h, congrArg (BitVec.setWidth 32)⟩

theorem decodeControlWord_of_not_mirrored {c : Cfg} {w : Word}
    (h : w.extractLsb' c.posChsel 2 ≠ w.extractLsb' c.posChdup 2) :
    decodeControlWord c w = .error .channelNotMirrored :=
  if_pos (mt (cwChannel_eq_cwMirror_iff c w).1 h)

/-- A flag of the word is clear, or a bit outside the seven fields is set (R33, R96). -/
def ForeignBits (c : Cfg) (w : Word) : Prop :=
  w.getLsbD c.posChen = false ∨ w.getLsbD c.posCmden = false ∨ w.getLsbD c.posStart = false ∨
    ∃ b, b < 32 ∧ (∀ f ∈ c.fields, b < f.1 ∨ f.1 + f.2 ≤ b) ∧ w.getLsbD b = true

theorem not_foreignBits_encodeWord {c : Cfg} (hc : c.wellFormed = true) (channel inputLen outputLen : Word) :
    ¬ ForeignBits c (encodeWord c channel inputLen outputLen) := by
  obtain ⟨hchen, hcmden, hstart⟩ := encodeWord_flags hc channel inputLen outputLen
  rintro (h | h | h | ⟨b, -, hb, h⟩)
  · exact Bool.false_ne_true (h.symm.trans hchen)
  · exact Bool.false_ne_true (h.symm.trans hcmden)
  · exact Bool.false_ne_true (h.symm.trans hstart)
  · exact Bool.false_ne_true ((encodeWord_unnamed_bit hc _ _ _ hb).symm.trans h)

theorem decodeControlWord_of_foreignBits {c : Cfg} {w : Word} (hc : c.wellFormed = true)
    (hm : w.extractLsb' c.posChsel 2 = w.extractLsb' c.posChdup 2) (hw : ForeignBits c w) :
    decodeControlWord c w = .error .controlWordBits := by
  have hne : w ≠ encodeWord c (cwChannel c w) (cwInputLen c w) (cwOutputLen c w) := fun h =>
    not_foreignBits_encodeWord hc _ _ _ (h ▸ hw)
  exact (if_neg (not_not.2 ((cwChannel_eq_cwMirror_iff c w).2 hm))).trans (if_pos hne)

end Sys2Proof.Machine
end

section
/-! SUPPORT. The decoder and the encoder (30_encoding.md): inverse to each other in both directions (R93), and the
refusals by name (R87, R95, R97). -/

namespace Sys2Proof.Machine

/-! ### The words of the two ports -/

theorem exists_append {n m : Nat} (x : BitVec (n + m)) : ∃ (a : BitVec n) (b : BitVec m), x = a ++ b :=
  ⟨_, _, BitVec.extractLsb'_append_extractLsb'.symm⟩

theorem exists_hostReqWord (w : HostReqWord) : ∃ op v, w = hostReqWord op v :=
  exists_append (n := 1) (m := 32) w

theorem exists_regPortWord (w : RegPortWord) : ∃ sel we index v, w = regPortWord sel we index v := by
  obtain ⟨swi, v, rfl⟩ := exists_append (n := 7) (m := 32) w
  obtain ⟨sw, index, rfl⟩ := exists_append (n := 2) (m := 5) swi
  obtain ⟨sel, we, rfl⟩ := exists_append (n := 1) (m := 1) sw
  exact ⟨sel, we, index, v, rfl⟩

section
variable (c : Cfg) (op sel we : BitVec 1) (index : BitVec 5) (v : Word)

theorem decodeHostReq_hostReqWord :
    decodeHostReq (hostReqWord op v) = if op.getLsbD 0 then .transact v else .tick v := by
  rw [decodeHostReq, getLsbD_hostReqWord_op]
  simp only [hostReqWord, BitVec.setWidth_append_eq_right]

theorem regPortWord_sel : (regPortWord sel we index v).getLsbD 38 = sel.getLsbD 0 := by
  simp only [regPortWord, BitVec.getLsbD_append]
  rfl

theorem regPortWord_we : (regPortWord sel we index v).getLsbD 37 = we.getLsbD 0 := by
  simp only [regPortWord, BitVec.getLsbD_append]
  rfl

theorem regPortWord_index : (regPortWord sel we index v).extractLsb' 32 5 = index := by
  rw [regPortWord, BitVec.extractLsb'_append_eq_of_le (Nat.le_refl 32)]
  exact BitVec.extractLsb'_append_eq_right

theorem regPortWord_wdata : (regPortWord sel we index v).setWidth 32 = v := BitVec.setWidth_append_eq_right

/-- R85: an access to the buffer is decoded for every index. -/
theorem decodeRegPort_buffer :
    decodeRegPort c (regPortWord 1#1 we index v) =
      .ok (if we.getLsbD 0 then .writeBuffer index v else .readBuffer index v) := by
  simp only [decodeRegPort, regPortWord_sel, regPortWord_we, regPortWord_index, regPortWord_wdata]
  cases we.getLsbD 0 <;> rfl

/-- R85, R114: an access to a control register is decoded for an index below NCTRL. -/
theorem decodeRegPort_control :
    decodeRegPort c (regPortWord 0#1 we index v) =
      if index.toNat < c.nctrl then
        .ok (if we.getLsbD 0 then .writeControl index v else .readControl index v)
      else .error .indexOutsideWindow := by
  simp only [decodeRegPort, regPortWord_sel, regPortWord_we, regPortWord_index, regPortWord_wdata]
  cases we.getLsbD 0 <;> rfl

end

/-! ### Command frames -/

theorem encode_command (c : Cfg) (cmd : Command) (v : Word) : encode c (cmd.instr v) = .frame (cmd.frame v) := by
  cases cmd <;> rfl

theorem Command.instr_wellFormed (c : Cfg) (cmd : Command) (v : Word) : (cmd.instr v).wellFormed c = true := by
  cases cmd <;> rfl

theorem payloadValue_payload (v : Word) :
    payloadValue (v.extractLsb' 24 8) (v.extractLsb' 16 8) (v.extractLsb' 8 8) (v.extractLsb' 0 8) = v :=
  bytes_append v

theorem payload_payloadValue (p0 p1 p2 p3 : Byte) : payload (payloadValue p0 p1 p2 p3) = [p0, p1, p2, p3] := by
  have h0 : (payloadValue p0 p1 p2 p3).extractLsb' 0 8 = p3 := BitVec.extractLsb'_append_eq_right
  have h8 : (payloadValue p0 p1 p2 p3).extractLsb' 8 8 = p2 :=
    (BitVec.extractLsb'_append_eq_of_le (Nat.le_refl 8)).trans BitVec.extractLsb'_append_eq_right
  have h16 : (payloadValue p0 p1 p2 p3).extractLsb' 16 8 = p1 :=
    (BitVec.extractLsb'_append_eq_of_le (by decide)).trans
      ((BitVec.extractLsb'_append_eq_of_le (Nat.le_refl 8)).trans BitVec.extractLsb'_append_eq_right)
  have h24 : (payloadValue p0 p1 p2 p3).extractLsb' 24 8 = p0 :=
    (BitVec.extractLsb'_append_eq_of_le (by decide)).trans
      ((BitVec.extractLsb'_append_eq_of_le (by decide)).trans BitVec.extractLsb'_append_eq_left)
  rw [payload, h0, h8, h16, h24]

/-- A command's frame is read off the front of the bytes, and what follows it is left (R88, R93). -/
theorem decodeFrame_frame (cmd : Command) (v : Word) (tail : List Byte) :
    decodeFrame (cmd.frame v ++ tail) = .ok (cmd.instr v, tail) := by
  cases cmd with
  | write => exact congrArg (fun x => Except.ok (Instr.jbWrite x, tail)) (payloadValue_payload v)
  | reset => rfl
  | ping => rfl
  | read => rfl

/-- Only the frame of a command, with bytes after it or none, has a command read off its front. -/
theorem eq_frame_of_decodeFrame {bytes tail : List Byte} {i : Instr} (h : decodeFrame bytes = .ok (i, tail)) :
    ∃ (cmd : Command) (v : Word), i = cmd.instr v ∧ bytes = cmd.frame v ++ tail := by
  unfold decodeFrame at h
  split at h
  next => cases h
  next hd rest =>
    split_ifs at h with hreset hping hread hwrite
    · cases h; exact ⟨.reset, 0, rfl, congrArg (· :: tail) hreset⟩
    · cases h; exact ⟨.ping, 0, rfl, congrArg (· :: tail) hping⟩
    · cases h; exact ⟨.read, 0, rfl, congrArg (· :: tail) hread⟩
    · split at h <;> cases h
      next p0 p1 p2 p3 =>
        refine ⟨.write, payloadValue p0 p1 p2 p3, rfl, ?_⟩
        rw [hwrite, Command.frame, payload_payloadValue]
        rfl

theorem decode_command_frame (c : Cfg) (cmd : Command) (v : Word) :
    decode c (.frame (cmd.frame v)) = .ok (cmd.instr v) := by
  have h := decodeFrame_frame cmd v []
  rw [List.append_nil] at h
  simp only [decode, h]

theorem decode_frame_of_tail (c : Cfg) (cmd : Command) (v : Word) (b : Byte) (tail : List Byte) :
    decode c (.frame (cmd.frame v ++ b :: tail)) = .error .trailingBytes := by
  simp only [decode, decodeFrame_frame]

theorem decode_frame_of_unknown_header (c : Cfg) {h : Byte} (rest : List Byte) (hreset : h ≠ headerReset)
    (hping : h ≠ headerPing) (hread : h ≠ headerRead) (hwrite : h ≠ headerWrite) :
    decode c (.frame (h :: rest)) = .error (.unknownHeader h) := by
  have hf : decodeFrame (h :: rest) = .error (.unknownHeader h) :=
    (if_neg hreset).trans ((if_neg hping).trans ((if_neg hread).trans (if_neg hwrite)))
  simp only [decode, hf]

theorem decode_write_frame_of_short (c : Cfg) : ∀ {rest : List Byte}, rest.length < 4 →
    decode c (.frame (headerWrite :: rest)) = .error .truncatedFrame
  | [], _ | [_], _ | [_, _], _ | [_, _, _], _ => rfl
  | _ :: _ :: _ :: _ :: _, h => absurd h (by simp)

theorem decode_write_frame_of_long (c : Cfg) : ∀ {rest : List Byte}, 4 < rest.length →
    decode c (.frame (headerWrite :: rest)) = .error .trailingBytes
  | p0 :: p1 :: p2 :: p3 :: b :: tail, _ => by
    have h := decode_frame_of_tail c .write (payloadValue p0 p1 p2 p3) b tail
    rwa [Command.frame, payload_payloadValue] at h

/-! ### From an operation to its packet and back -/

/-- Settles O56: each format's decoder on the packet that the encoder makes, a command through its frame. -/
theorem decodeOfEncode : Obligations.DecodeOfEncode := by
  intro c i hc hi
  cases i with
  | tick v => exact congrArg Except.ok (decodeHostReq_hostReqWord 0 v)
  | transact v => exact congrArg Except.ok (decodeHostReq_hostReqWord 1 v)
  | jbReset => exact decode_command_frame c .reset 0
  | jbPing => exact decode_command_frame c .ping 0
  | jbRead => exact decode_command_frame c .read 0
  | jbWrite v => exact decode_command_frame c .write v
  | encode channel inputLen outputLen =>
    obtain ⟨hchan, hin, hout⟩ := of_decide_eq_true hi
    exact decodeControlWord_encodeWord hc hchan hin hout
  | execute => rfl
  | swap32 x => rfl
  | swap16h x => rfl
  | writeControl index v => exact (decodeRegPort_control c 1 index v).trans (if_pos (of_decide_eq_true hi))
  | readControl index v => exact (decodeRegPort_control c 0 index v).trans (if_pos (of_decide_eq_true hi))
  | writeBuffer index v => exact decodeRegPort_buffer c 1 index v
  | readBuffer index v => exact decodeRegPort_buffer c 0 index v

/-! ### From a packet to its operation and back -/

/-- The packet is the encoding of the operation, which is well formed. -/
def EncodesTo (c : Cfg) (i : Instr) (p : Packet) : Prop := encode c i = p ∧ i.wellFormed c = true

section
variable (c : Cfg)

theorem encodesTo_decodeHostReq (w : HostReqWord) : EncodesTo c (decodeHostReq w) (.hostReq w) := by
  obtain ⟨op, v, rfl⟩ := exists_hostReqWord w
  rw [decodeHostReq_hostReqWord]
  obtain rfl | rfl := op.eq_zero_or_eq_one <;> exact ⟨rfl, rfl⟩

variable {c} {i : Instr}

theorem encodesTo_of_decodeRegPort {w : RegPortWord} (h : decodeRegPort c w = .ok i) :
    EncodesTo c i (.regPort w) := by
  obtain ⟨sel, we, index, v, rfl⟩ := exists_regPortWord w
  obtain rfl | rfl := sel.eq_zero_or_eq_one
  · rw [decodeRegPort_control] at h
    split at h
    next hi => obtain rfl | rfl := we.eq_zero_or_eq_one <;> cases h <;> exact ⟨rfl, decide_eq_true hi⟩
    next => cases h
  · rw [decodeRegPort_buffer] at h
    obtain rfl | rfl := we.eq_zero_or_eq_one <;> cases h <;> exact ⟨rfl, rfl⟩

theorem encodesTo_of_decodeControlWord {w : Word} (h : decodeControlWord c w = .ok i) :
    EncodesTo c i (.controlWord w) := by
  obtain ⟨rfl, hw⟩ := decodeControlWord_eq_ok h
  exact ⟨congrArg Packet.controlWord hw.symm, encode_cw_wellFormed c w⟩

theorem encodesTo_of_decode_frame {bytes : List Byte} (h : decode c (.frame bytes) = .ok i) :
    EncodesTo c i (.frame bytes) := by
  rw [decode] at h
  split at h <;> cases h
  next hf =>
    obtain ⟨cmd, v, rfl, rfl⟩ := eq_frame_of_decodeFrame hf
    rw [List.append_nil]
    exact ⟨encode_command c cmd v, cmd.instr_wellFormed c v⟩

end

/-- Settles O57, format by format. -/
theorem encodeOfDecode : Obligations.EncodeOfDecode := by
  intro c p i h
  cases p with
  | hostReq w => cases h; exact encodesTo_decodeHostReq c w
  | regPort w => exact encodesTo_of_decodeRegPort h
  | controlWord w => exact encodesTo_of_decodeControlWord h
  | frame bytes => exact encodesTo_of_decode_frame h
  | execute => cases h; exact ⟨rfl, rfl⟩
  | swap32 x => cases h; exact ⟨rfl, rfl⟩
  | swap16h x => cases h; exact ⟨rfl, rfl⟩

/-! ### What is refused -/

/-- A packet that is the encoding of no well-formed operation does not decode, since what decodes is (R93). -/
theorem exists_decode_error {c : Cfg} {p : Packet} (hp : ∀ i : Instr, i.wellFormed c = true → encode c i ≠ p) :
    ∃ e, decode c p = .error e := by
  cases hd : decode c p with
  | error e => exact ⟨e, rfl⟩
  | ok i =>
    obtain ⟨he, hi⟩ := encodeOfDecode c p i hd
    exact absurd he (hp i hi)

/-- Settles O58: one refusal for each way in which a packet fails its format, and the general one from O57. -/
theorem undecodableRejectedByName : Obligations.UndecodableRejectedByName :=
  ⟨fun c _ rest hreset hping hread hwrite => decode_frame_of_unknown_header c rest hreset hping hread hwrite,
    fun c _ hshort => decode_write_frame_of_short c hshort,
    fun c _ hlong => decode_write_frame_of_long c hlong,
    fun c b rest => ⟨decode_frame_of_tail c .reset 0 b rest, decode_frame_of_tail c .ping 0 b rest,
      decode_frame_of_tail c .read 0 b rest⟩,
    fun _ _ hne => decodeControlWord_of_not_mirrored hne,
    fun _ _ hc hm hw => decodeControlWord_of_foreignBits hc hm hw,
    fun _ => rfl,
    fun _ _ hp => exists_decode_error hp,
    fun c we index v hi => (decodeRegPort_control c we index v).trans (if_neg (Nat.not_lt.2 hi))⟩

/-- Settles O59: the decoder evaluated on each of the nine words. -/
theorem writtenOutWordsDecode : Obligations.WrittenOutWordsDecode :=
  ⟨rfl, rfl, rfl, rfl, rfl, rfl, rfl, rfl, rfl⟩

end Sys2Proof.Machine
end

section
/-! SUPPORT. The command words (R92): the bytes of a command's frame, each in the lane that LANE_ORDER gives it. -/

namespace Sys2Proof.Machine

/-! ### Bytes of the Link Value in place -/

theorem setWidth_low_byte (v : Word) : (v.extractLsb' 0 8).setWidth 32 = v &&& 0xFF#32 := by
  refine BitVec.eq_of_toNat_eq ?_
  have hmask : v.toNat &&& 255 = v.toNat % 256 := Nat.and_two_pow_sub_one_eq_mod v.toNat 8
  simp [hmask]
  omega

theorem setWidth_high_bytes (v : Word) : (v.extractLsb' 8 24).setWidth 32 = v >>> 8 := by
  refine BitVec.eq_of_toNat_eq ?_
  simp
  omega

/-- The three high bytes of a word, each put in the lane below its own, make the word shifted by a lane. -/
theorem or_high_bytes (v : Word) :
    (v.extractLsb' 24 8).setWidth 32 <<< 16 ||| (v.extractLsb' 16 8).setWidth 32 <<< 8 |||
      (v.extractLsb' 8 8).setWidth 32 = v >>> 8 := by
  have hbytes : v.extractLsb' 24 8 ++ v.extractLsb' 16 8 ++ v.extractLsb' 8 8 = v.extractLsb' 8 24 := by
    rw [BitVec.extractLsb'_append_extractLsb'_eq_extractLsb' (by rfl),
      BitVec.extractLsb'_append_extractLsb'_eq_extractLsb' (by rfl)]
  rw [← setWidth_high_bytes, ← hbytes, BitVec.setWidth_append_append_eq_shiftLeft_setWidth_or]

theorem append_high_bytes (h : Byte) (v : Word) :
    (h ++ v.extractLsb' 8 24 : BitVec 32) = h.setWidth 32 <<< 24 ||| v >>> 8 := by
  rw [← setWidth_high_bytes, ← BitVec.setWidth_append_eq_shiftLeft_setWidth_or, BitVec.setWidth_eq]

/-! ### The words, lane by lane -/

section
variable (c : Cfg) (v : Word)

theorem pack_singleton (o : LaneOrder) (b : Byte) : pack o [b] 0 = b.setWidth 32 <<< laneLo o 0 := by
  simp [pack, packLane]

theorem word0_reset : word0 c .reset v = 0xFF#32 <<< laneLo c.laneOrder 0 := pack_singleton _ _

theorem word0_ping : word0 c .ping v = 0x00#32 <<< laneLo c.laneOrder 0 := pack_singleton _ _

theorem word0_read : word0 c .read v = 0x14#32 <<< laneLo c.laneOrder 0 := pack_singleton _ _

theorem word0_write : word0 c .write v =
    0x15#32 <<< laneLo c.laneOrder 0 ||| (v.extractLsb' 24 8).setWidth 32 <<< laneLo c.laneOrder 1
      ||| (v.extractLsb' 16 8).setWidth 32 <<< laneLo c.laneOrder 2
      ||| (v.extractLsb' 8 8).setWidth 32 <<< laneLo c.laneOrder 3 := rfl

theorem laneLo_four (o : LaneOrder) : laneLo o 4 = laneLo o 0 := by cases o <;> rfl

theorem word1_eq : word1 c v = (v &&& 0xFF#32) <<< laneLo c.laneOrder 0 := by
  rw [← setWidth_low_byte, ← laneLo_four]
  simp [word1, pack, packLane, Command.frame, payload]

end

/-- Settles O30: in wire order the lanes stand at 24, 16, 8 and 0 under msb_first and at 0, 8, 16 and 24 under
lsb_first (R55). -/
theorem commandWordTable : Obligations.CommandWordTable := by
  intro c v
  refine ⟨fun ho => ?_, fun ho => ?_⟩
  · have hwrite : word0 c .write v = 0x15#32 <<< 24 ||| v >>> 8 := by
      rw [word0_write, ho, ← or_high_bytes, ← BitVec.or_assoc, ← BitVec.or_assoc]
      simp [laneLo]
    refine ⟨?_, ?_, ?_, hwrite, hwrite.trans (append_high_bytes 0x15 v).symm, ?_⟩
    · rw [word0_reset, ho]; rfl
    · rw [word0_ping, ho]; rfl
    · rw [word0_read, ho]; rfl
    · rw [word1_eq, ho]; rfl
  · refine ⟨?_, ?_, ?_, ?_, ?_⟩
    · rw [word0_reset, ho]; rfl
    · rw [word0_ping, ho]; rfl
    · rw [word0_read, ho]; rfl
    · rw [word0_write, ho]; rfl
    · rw [word1_eq, ho]; exact BitVec.shiftLeft_zero _

end Sys2Proof.Machine
end

section
/-! SUPPORT. What a step runs (R93, R147, R170), and the response that ends a host operation (R83, R84). -/

namespace Sys2Proof.Machine

/-! ### The operation of a step -/

section
variable {s : State} {p : Packet} (hr : s.rst = false) (hc : s.cfg.wellFormed = true) (hp : s.presented = some p)
include hr hc hp

theorem step_presented {i : Instr} (hd : decode s.cfg p = .ok i) :
    step s = exec i { s.clearPorts with presented := none } := by
  simp [step, hr, fetch, hc, hp, hd]

theorem step_undecodable {e : DecodeError} (hd : decode s.cfg p = .error e) :
    step s = .refused (.undecodable e) := by
  simp [step, hr, fetch, hc, hp, hd]

end

/-- Settles O41: a request, the command in progress, or the presented packet, by what `fetch` finds. -/
theorem stepRunsFetchedOperation : Obligations.StepRunsFetchedOperation := by
  intro s hr hc
  refine ⟨fun w rest hn hp hq => step_idle_request ⟨hr, hn⟩ hc hp hq, fun hn hp => ?_,
    fun p i hp hd => step_presented hr hc hp hd, fun p e hp hd => step_undecodable hr hc hp hd⟩
  rw [step_busy ⟨hr, hn⟩ hc hp]
  exact (exec_command (s := s.clearPorts) hp).symm

/-! ### When a response is presented -/

theorem afterFill0_ne_idle (c : Command) : afterFill0 c ≠ .idle := by cases c <;> decide

/-- The step from `s` to `t` ends a host operation (R84): it leads from a busy phase to IDLE, or accepts a TRANSACT
while Disconnected. -/
def EndsOperation (s t : State) : Prop :=
  (s.ph ≠ .idle ∧ t.ph = .idle) ∨
  (s.ph = .idle ∧ s.conn = .disconnected ∧ ∃ w rest, s.reqs = w :: rest ∧ w.getLsbD 32 = true)

theorem not_endsOperation_of_busy {s t : State} (hs : s.ph ≠ .idle) (ht : t.ph ≠ .idle) : ¬ EndsOperation s t := by
  simp [EndsOperation, hs, ht]

/-- The rows that present a response are those that end a host operation. -/
theorem OwnStep.rsp_ne_none_iff {s t : State} (h : OwnStep s t) : t.rsp ≠ none ↔ EndsOperation s t := by
  have silent (hp : s.ph ≠ .idle) (ht : t.ph ≠ .idle) (hn : t.rsp = none) : t.rsp ≠ none ↔ EndsOperation s t :=
    iff_of_false (not_not.2 hn) (not_endsOperation_of_busy hp ht)
  cases h
  case wait hp hq => simp [EndsOperation, hp, hq]
  case tick w rest hp hq hw => simp [EndsOperation, hp, hq, hw, -BitVec.getLsbD_eq_getElem]
  case transact w rest hp hq _ hn => simp [EndsOperation, hp, hn]
  case notConnected w rest hp hq hw hn => exact iff_of_true nofun (.inr ⟨hp, hn, w, rest, hq, hw⟩)
  case timeout hp _ _ => exact iff_of_true nofun (.inl ⟨by obtain hp | hp := hp <;> simp [hp], rfl⟩)
  case respReset hp _ => exact iff_of_true nofun (.inl ⟨by simp [hp], rfl⟩)
  case respPing hp _ => exact iff_of_true nofun (.inl ⟨by simp [hp], rfl⟩)
  case respRead hp _ => exact iff_of_true nofun (.inl ⟨by simp [hp], rfl⟩)
  case pollAgain hp _ _ => obtain hp | hp := hp <;> exact silent (by simp [hp]) (by simp [hp]) rfl
  case fill0 hp => exact silent (by simp [hp]) (afterFill0_ne_idle _) rfl
  case clearMore hp _ => exact silent (by simp [hp]) (by simp [hp]) rfl
  all_goals exact silent (by simp [‹s.ph = _›]) nofun rfl

/-- Settles O49: an own step is one of the rows. -/
theorem responseExactlyAtEndOfOperation : Obligations.ResponseExactlyAtEndOfOperation := fun _ _ ho hs =>
  (ownStep_of_step ho hs).2.rsp_ne_none_iff

/-! ### The fields of a response -/

/-- The fields of a response that are zero by the operation it ends (R83). -/
def Response.FitsOp (r : Response) (op : HostOp) : Prop :=
  (op = .tick → r.value = 0) ∧ (op = .transact → r.event = .noEvent) ∧
  (r.err ≠ .ok → r.event = .noEvent ∧ r.value = 0)

theorem State.opMatches.opR_of_identify {s : State} (h : s.opMatches) (hm : s.cmdR = .reset ∨ s.cmdR = .ping) :
    s.opR = .tick := by
  cases ho : s.opR with
  | tick => rfl
  | transact => obtain hm | hm := hm <;> simp [State.opMatches, ho, hm] at h

theorem State.opMatches.opR_of_read {s : State} (h : s.opMatches) (hm : s.cmdR = .read) : s.opR = .transact := by
  cases ho : s.opR with
  | transact => rfl
  | tick => cases hn : s.conn <;> simp [State.opMatches, ho, hm, hn, tickCommand] at h

/-- RESP of an identify command ends a TICK, RESP of JB_READ a TRANSACT, and the other rows with a response give an
error. -/
theorem OwnStep.fitsOp_of_rsp {s t : State} (h : OwnStep s t) (hop : s.ph ≠ .idle → s.opMatches) {r : Response}
    (hr : t.rsp = some r) : r.FitsOp t.opR := by
  have hresp (hp : s.ph = .resp) : s.opMatches := hop (by simp [hp])
  cases h <;> cases hr
  case notConnected => exact ⟨fun _ => rfl, fun _ => rfl, fun _ => ⟨rfl, rfl⟩⟩
  case timeout => exact ⟨fun _ => rfl, fun _ => rfl, fun _ => ⟨rfl, rfl⟩⟩
  case respReset hp hm =>
    have ho := (hresp hp).opR_of_identify (.inl hm)
    exact ⟨fun _ => rfl, fun ht => (nomatch ho.symm.trans ht), fun he => absurd rfl he⟩
  case respPing hp hm =>
    have ho := (hresp hp).opR_of_identify (.inr hm)
    exact ⟨fun _ => rfl, fun ht => (nomatch ho.symm.trans ht), fun he => absurd rfl he⟩
  case respRead hp hm =>
    have ho := (hresp hp).opR_of_read hm
    exact ⟨fun ht => (nomatch ho.symm.trans ht), fun _ => rfl, fun he => absurd rfl he⟩

/-- Settles O60: the codes by evaluation, and the zero fields from the rows, with the operation that the invariant ties
to the command in progress. -/
theorem responseWordFormat : Obligations.ResponseWordFormat :=
  ⟨fun _ => ⟨rfl, rfl, rfl, rfl, rfl⟩, fun _ _ _ hi hr hs hrsp =>
    (ownStep_of_step ⟨hr, hi.notPresented⟩ hs).2.fitsOp_of_rsp hi.op hrsp⟩

end Sys2Proof.Machine
end

section
/-! SUPPORT. The four accesses of the Register Interface (R110 to R114), each as an operation of its own. -/

namespace Sys2Proof.Machine

/-! ### What each operation answers -/

section
variable {s : State} {index : BitVec 5}

theorem exec_writeControl_of_lt (value : Word) (h : index.toNat < s.cfg.nctrl) :
    exec (.writeControl index value) s =
      .next ((s.storeCtrl index.toNat value).access (.writeControl index value)) :=
  writeControl_of_lt value h

theorem exec_writeControl_of_not_lt (value : Word) (h : ¬ index.toNat < s.cfg.nctrl) :
    exec (.writeControl index value) s = .refused .indexOutsideWindow :=
  writeControl_of_not_lt value h

theorem exec_readControl_of_lt (wdata : Word) (h : index.toNat < s.cfg.nctrl) :
    exec (.readControl index wdata) s = .next (s.takeAnswer.access (.readControl index s.nextAnswer)) := by
  simp only [exec, execReadControl, readControl_of_lt h, andThen_next]

theorem exec_readControl_of_not_lt (wdata : Word) (h : ¬ index.toNat < s.cfg.nctrl) :
    exec (.readControl index wdata) s = .refused .indexOutsideWindow := by
  simp only [exec, execReadControl, readControl_of_not_lt h, andThen]

end

theorem exec_writeBuffer (index : BitVec 5) (value : Word) (s : State) :
    exec (.writeBuffer index value) s =
      .next ((s.storeBuf index.toNat value).access (.writeBuffer index value)) := rfl

theorem exec_readBuffer (index : BitVec 5) (wdata : Word) (s : State) :
    exec (.readBuffer index wdata) s = .next (s.takeAnswer.access (.readBuffer index s.nextAnswer)) := rfl

/-! ### The writes -/

theorem SameBytes.refl (m : Memory) : SameBytes m m := fun _ => rfl

/-- Settles O1: the window is written by one stored word, and the access and that word are all that changes. -/
theorem writeControlStoresWholeWord : Obligations.WriteControlStoresWholeWord := by
  intro s index value h
  have hstored := Memory.storedWord_storeWord ctrlLanes s.ctrl index.toNat value
  exact ⟨_, exec_writeControl_of_lt value h, hstored, Memory.loadWord_of_stored hstored, .refl _,
    ⟨_, rfl, rfl⟩, rfl⟩

/-- Settles O3: as for a control register, in the lane order of CFG, and for every index (R114). -/
theorem writeBufferStoresWholeWord : Obligations.WriteBufferStoresWholeWord := by
  intro s index value
  have hstored := Memory.storedWord_storeWord s.cfg.laneOrder s.buf index.toNat value
  exact ⟨_, exec_writeBuffer index value s, hstored, Memory.loadWord_of_stored hstored, .refl _,
    ⟨_, rfl, rfl⟩, rfl⟩

/-! ### The reads -/

theorem State.nextAnswer_of_cons {s : State} {r : Word} {more : List Word} (h : s.answers = r :: more) :
    s.nextAnswer = r := by
  simp only [State.nextAnswer, h]

theorem State.nextAnswer_of_nil {s : State} (h : s.answers = []) : s.nextAnswer = Config.draw s.draws := by
  simp only [State.nextAnswer, h]

/-- From `s` to `t` one read has brought back what the controller presents (R38): the access `a` of that word stands
on the port, its answer is used up, and nothing else has changed. -/
def BroughtBack (a : Word → Access) (s t : State) : Prop :=
  (∀ r more, s.answers = r :: more → t.rp = some (a r) ∧ t.answers = more) ∧
  (s.answers = [] → t.rp = some (a (Config.draw s.draws)) ∧ t.answers = []) ∧
  SameBytes s.ctrl t.ctrl ∧ SameBytes s.buf t.buf ∧
  { t with rp := s.rp, answers := s.answers, draws := s.draws } = s

theorem broughtBack_takeAnswer_access (a : Word → Access) (s : State) :
    BroughtBack a s (s.takeAnswer.access (a s.nextAnswer)) := by
  refine ⟨fun r more h => ?_, fun h => ?_, .refl _, .refl _, rfl⟩
  · simp [State.nextAnswer_of_cons h, h]
  · simp [State.nextAnswer_of_nil h, h]

/-- Settles O2: the read is the one that both windows share. -/
theorem readControlTakesControllerWord : Obligations.ReadControlTakesControllerWord :=
  fun s index wdata h =>
    ⟨_, exec_readControl_of_lt wdata h, broughtBack_takeAnswer_access (.readControl index) s⟩

/-- Settles O4: the same read; the bytes of the buffer play no part in it. -/
theorem readBufferTakesControllerWord : Obligations.ReadBufferTakesControllerWord :=
  fun s index wdata =>
    ⟨_, exec_readBuffer index wdata s, broughtBack_takeAnswer_access (.readBuffer index) s⟩

/-! ### Outside the window -/

/-- Settles O5: the index is tested before anything is written or read. -/
theorem controlIndexOutsideWindowRefused : Obligations.ControlIndexOutsideWindowRefused :=
  fun _ _ value h =>
    ⟨exec_writeControl_of_not_lt value h.not_gt, exec_readControl_of_not_lt value h.not_gt⟩

end Sys2Proof.Machine
end

section
/-! SUPPORT. The Byte-Order Converter (R120 to R122). Each swap moves a bit to the place whose number has a fixed part
flipped: the byte's number for `swap32` (24), the half's for `swap16Halves` (16), the byte's number within its half for
both together (8). -/

namespace Sys2Proof.Machine

/-! ### Where a bit comes from -/

section
variable (x : Word)

/-- Half `j` of the exchanged word is half `1 - j` of the word (R121). -/
theorem extractLsb'_swap16Halves {j : Nat} (hj : j < 2) :
    (swap16Halves x).extractLsb' (16 * j) 16 = x.extractLsb' (16 - 16 * j) 16 := by
  refine BitVec.eq_of_getLsbD_eq fun b hb => ?_
  simp only [swap16Halves, BitVec.getLsbD_extractLsb', BitVec.getLsbD_append]
  interval_cases j <;> grind

/-- A bit of a word is a bit of the part of width `n` that it stands in. -/
theorem getLsbD_part {n : Nat} (hn : 0 < n) (b : Nat) :
    x.getLsbD b = (x.extractLsb' (n * (b / n)) n).getLsbD (b % n) := by
  simp [Nat.mod_lt b hn, Nat.div_add_mod]

variable {b : Nat} (hb : b < 32)
include hb

theorem getLsbD_swap32 : (swap32 x).getLsbD b = x.getLsbD (b ^^^ 24) := by
  have hbit : 24 - 8 * (b / 8) + b % 8 = b ^^^ 24 := by interval_cases b <;> rfl
  rw [getLsbD_part _ (n := 8) (by decide), extractLsb'_swap32 x (by omega), BitVec.getLsbD_extractLsb', hbit]
  simp [Nat.mod_lt]

theorem getLsbD_swap16Halves : (swap16Halves x).getLsbD b = x.getLsbD (b ^^^ 16) := by
  have hbit : 16 - 16 * (b / 16) + b % 16 = b ^^^ 16 := by interval_cases b <;> rfl
  rw [getLsbD_part _ (n := 16) (by decide), extractLsb'_swap16Halves x (by omega), BitVec.getLsbD_extractLsb', hbit]
  simp [Nat.mod_lt]

theorem getLsbD_swapBytesInHalves :
    (x.extractLsb' 16 8 ++ x.extractLsb' 24 8 ++ x.extractLsb' 0 8 ++ x.extractLsb' 8 8 : BitVec 32).getLsbD b =
      x.getLsbD (b ^^^ 8) := by
  simp only [BitVec.getLsbD_append, BitVec.getLsbD_extractLsb']
  interval_cases b <;> rfl

theorem xor_lt_32 {m : Nat} (hm : m < 32) : b ^^^ m < 32 :=
  Nat.xor_lt_two_pow (n := 5) hb hm

end

/-! ### The forms by masks and shifts -/

theorem swap32_eq_masks (x : Word) :
    swap32 x = ((x &&& 0x000000FF) <<< 24) ||| ((x &&& 0x0000FF00) <<< 8) |||
      ((x >>> 8) &&& 0x0000FF00) ||| ((x >>> 24) &&& 0x000000FF) := by
  refine BitVec.eq_of_getLsbD_eq fun b hb => ?_
  rw [getLsbD_swap32 x hb]
  interval_cases b <;> simp

theorem swap16Halves_eq_masks (x : Word) :
    swap16Halves x = ((x &&& 0x0000FFFF) <<< 16) ||| (x >>> 16) := by
  refine BitVec.eq_of_getLsbD_eq fun b hb => ?_
  rw [getLsbD_swap16Halves x hb]
  interval_cases b <;> simp

/-! ### The laws -/

theorem swap32_involutive : Function.Involutive swap32 := fun x => by
  refine BitVec.eq_of_getLsbD_eq fun b hb => ?_
  rw [getLsbD_swap32 _ hb, getLsbD_swap32 _ (xor_lt_32 hb (by decide)), Nat.xor_xor_cancel_right]

theorem swap16Halves_involutive : Function.Involutive swap16Halves := fun x => by
  refine BitVec.eq_of_getLsbD_eq fun b hb => ?_
  rw [getLsbD_swap16Halves _ hb, getLsbD_swap16Halves _ (xor_lt_32 hb (by decide)), Nat.xor_xor_cancel_right]

theorem getLsbD_swap32_swap16Halves (x : Word) {b : Nat} (hb : b < 32) :
    (swap32 (swap16Halves x)).getLsbD b = x.getLsbD (b ^^^ 8) := by
  rw [getLsbD_swap32 _ hb, getLsbD_swap16Halves _ (xor_lt_32 hb (by decide)), Nat.xor_assoc]
  rfl

theorem getLsbD_swap16Halves_swap32 (x : Word) {b : Nat} (hb : b < 32) :
    (swap16Halves (swap32 x)).getLsbD b = x.getLsbD (b ^^^ 8) := by
  rw [getLsbD_swap16Halves _ hb, getLsbD_swap32 _ (xor_lt_32 hb (by decide)), Nat.xor_assoc]
  rfl

theorem swap32_swap16Halves_comm : Function.Semiconj swap32 swap16Halves swap16Halves := fun x =>
  BitVec.eq_of_getLsbD_eq fun _ hb =>
    (getLsbD_swap32_swap16Halves x hb).trans (getLsbD_swap16Halves_swap32 x hb).symm

theorem swap32_swap16Halves_eq (x : Word) :
    swap32 (swap16Halves x) =
      (x.extractLsb' 16 8 ++ x.extractLsb' 24 8 ++ x.extractLsb' 0 8 ++ x.extractLsb' 8 8 : BitVec 32) :=
  BitVec.eq_of_getLsbD_eq fun _ hb =>
    (getLsbD_swap32_swap16Halves x hb).trans (getLsbD_swapBytesInHalves x hb).symm

/-- Settles O8: the laws follow from where each bit comes from, and an involution is a bijection. -/
theorem swapFunctionsAndTheirLaws : Obligations.SwapFunctionsAndTheirLaws :=
  ⟨fun x => ⟨rfl, swap32_eq_masks x, rfl, swap16Halves_eq_masks x, swap32_involutive x, swap16Halves_involutive x,
      swap32_swap16Halves_comm x, swap32_swap16Halves_eq x⟩,
    swap32_involutive.bijective, swap16Halves_involutive.bijective⟩

/-! ### The two operations -/

theorem exec_swap32 (x : Word) (s : State) : exec (.swap32 x) s = .next { s with convOut := swap32 x } := rfl

theorem exec_swap16h (x : Word) (s : State) : exec (.swap16h x) s = .next { s with convOut := swap16Halves x } := rfl

/-- Settles O6: the result is `swap32` of the operand, and only the field of the result is written. -/
theorem swap32ReversesBytes : Obligations.Swap32ReversesBytes := fun s x =>
  ⟨_, exec_swap32 x s, fun _ => extractLsb'_swap32 x, .refl _, .refl _, rfl⟩

/-- Settles O7: the result is `swap16Halves` of the operand, and only the field of the result is written. -/
theorem swap16hExchangesHalves : Obligations.Swap16hExchangesHalves := fun s x =>
  ⟨_, exec_swap16h x s, fun _ => extractLsb'_swap16Halves x, .refl _, .refl _, rfl⟩

end Sys2Proof.Machine
end

section
/-! SUPPORT. The Transfer Descriptor Encoder (R130 to R136): the operation as one write and one latch, the masks of its
operands, and the fields of the control word as bits of the operands. -/

namespace Sys2Proof.Machine

/-! ### The operation -/

/-- ENCODE under a well-formed CFG: the status-clear write, its access, and the control word in `cw_r` (R131, R132). -/
theorem exec_encode {s : State} (h : s.cfg.wellFormed = true) (channel inputLen outputLen : Word) :
    exec (.encode channel inputLen outputLen) s = .next
      { (s.storeCtrl s.cfg.statusIndex.toNat s.cfg.statusClearValue).access
          (.writeControl s.cfg.statusIndex s.cfg.statusClearValue) with
        cwR := encodeWord s.cfg channel inputLen outputLen } := by
  obtain ⟨-, hstatus, -, -⟩ := wf_indices h
  exact execEncode_eq hstatus channel inputLen outputLen

/-- Settles O9: one word is stored in the control window, and its access and the latched word are all else that
changes. -/
theorem encodeLatchesWordAndClearsStatus : Obligations.EncodeLatchesWordAndClearsStatus :=
  fun s channel inputLen outputLen h =>
    ⟨_, exec_encode h channel inputLen outputLen, rfl, Memory.storedWord_storeWord ctrlLanes s.ctrl _ _, rfl,
      .refl _, rfl⟩

/-! ### The masking law -/

theorem maskChannel_maskChannel (x : Word) : maskChannel (maskChannel x) = maskChannel x := by
  rw [maskChannel, maskChannel, BitVec.and_assoc, BitVec.and_self]

theorem maskLength_maskLength (x : Word) : maskLength (maskLength x) = maskLength x := by
  rw [maskLength, maskLength, BitVec.and_assoc, BitVec.and_self]

/-- The control word reads its operands through the masks only (R133). -/
theorem encodeWord_mask (c : Cfg) (channel inputLen outputLen : Word) :
    encodeWord c (maskChannel channel) (maskLength inputLen) (maskLength outputLen) =
      encodeWord c channel inputLen outputLen := by
  simp only [encodeWord, maskChannel_maskChannel, maskLength_maskLength]

/-- The operation depends on its operands through the control word only, whatever its outcome. -/
theorem exec_encode_congr {s : State} {a b c a' b' c' : Word}
    (h : encodeWord s.cfg a b c = encodeWord s.cfg a' b' c') :
    exec (.encode a b c) s = exec (.encode a' b' c') s := by
  simp only [exec, execEncode, h]

/-- Settles O12: the masks are idempotent, and the source's two operand triples have the same masked operands. -/
theorem encodeMasksOperands : Obligations.EncodeMasksOperands :=
  ⟨fun c channel inputLen outputLen => (encodeWord_mask c channel inputLen outputLen).symm,
    fun s channel inputLen outputLen => exec_encode_congr (encodeWord_mask s.cfg channel inputLen outputLen).symm,
    fun c => (encodeWord_mask c 7 200 200).symm⟩

/-! ### The fields as bits of the operands -/

/-- The mask of the channel keeps its two low bits. -/
theorem maskChannel_eq_fieldValue (x : Word) : maskChannel x = fieldValue (0, 2) x := by
  refine BitVec.eq_of_getLsbD_eq fun b hb => ?_
  rw [maskChannel, BitVec.getLsbD_and, getLsbD_three, getLsbD_fieldValue _ _ hb, Nat.zero_add, Bool.and_comm]

/-- The mask of a length keeps its seven low bits. -/
theorem maskLength_eq_fieldValue (x : Word) : maskLength x = fieldValue (0, 7) x := by
  refine BitVec.eq_of_getLsbD_eq fun b hb => ?_
  rw [maskLength, BitVec.getLsbD_and, getLsbD_7F, getLsbD_fieldValue _ _ hb, Nat.zero_add, Bool.and_comm]

/-- Fields of the same width that show the same value hold the same bits. -/
theorem extractLsb'_eq_of_fieldValue_eq {p q n : Nat} {v w : Word} (hn : n ≤ 32)
    (h : fieldValue (p, n) v = fieldValue (q, n) w) : v.extractLsb' p n = w.extractLsb' q n := by
  simpa [fieldValue, BitVec.setWidth_setWidth_of_le _ hn] using congrArg (BitVec.setWidth n) h

/-- A field of two bits that shows the masked channel holds the two low bits of the channel. -/
theorem extractLsb'_eq_of_maskChannel {p : Nat} {w x : Word} (h : fieldValue (p, 2) w = maskChannel x) :
    w.extractLsb' p 2 = x.extractLsb' 0 2 :=
  extractLsb'_eq_of_fieldValue_eq (by decide) (h.trans (maskChannel_eq_fieldValue x))

/-- A field of seven bits that shows a masked length holds the seven low bits of the length. -/
theorem extractLsb'_eq_of_maskLength {p : Nat} {w x : Word} (h : fieldValue (p, 7) w = maskLength x) :
    w.extractLsb' p 7 = x.extractLsb' 0 7 :=
  extractLsb'_eq_of_fieldValue_eq (by decide) (h.trans (maskLength_eq_fieldValue x))

/-- Settles O10: each field shows its masked operand, the flags are set, and no bit stands outside the fields. -/
theorem controlWordFieldLayout : Obligations.ControlWordFieldLayout := by
  intro c channel inputLen outputLen h
  obtain ⟨hchen, hcmden, hstart⟩ := encodeWord_flags h channel inputLen outputLen
  exact ⟨extractLsb'_eq_of_maskChannel (cwChannel_encodeWord h channel inputLen outputLen),
    extractLsb'_eq_of_maskChannel (cwMirror_encodeWord h channel inputLen outputLen),
    extractLsb'_eq_of_maskLength (cwOutputLen_encodeWord h channel inputLen outputLen),
    extractLsb'_eq_of_maskLength (cwInputLen_encodeWord h channel inputLen outputLen),
    hchen, hcmden, hstart, fun _ _ => encodeWord_unnamed_bit h channel inputLen outputLen⟩

/-! ### The control words of the commands -/

/-- Settles O13: four closed words, by evaluation; JB_RESET and JB_PING have the same frame lengths (R136). -/
theorem commandControlWordsUnderRef : Obligations.CommandControlWordsUnderRef := ⟨rfl, rfl, rfl, rfl⟩

end Sys2Proof.Machine
end

section
/-! SUPPORT. The Synchronous Transfer Executor (R140 to R145): EXECUTE in each of its phases, the poll loops over any
number of busy reads, and that the graph of R22 leads on from every state. -/

namespace Sys2Proof.Machine

/-! ### EXECUTE in each phase -/

section
variable {s : State} (hc : s.cfg.wellFormed = true)
include hc

/-- A busy read of EXECUTE, in either poll phase (R141, R143). -/
theorem exec_execute_of_busy (hp : s.ph = .poll1 ∨ s.ph = .poll2) (hb : s.seesBusy) :
    exec .execute s = .next s.polled.pollAgain := by
  have hb : busy s.cfg s.nextAnswer = true := hb
  obtain hp | hp := hp
  · simp only [exec, execExecute, hp, poll1Step_eq hc, hb, if_true]
  · simp only [exec, execExecute, hp, poll2Step_eq hc, hb, if_true]

/-- The read of EXECUTE that ends POLL1 (R141). -/
theorem exec_execute_of_poll1_done (hp : s.ph = .poll1)
    (hb : s.nextAnswer.getLsbD s.cfg.pollBit.val = false) :
    exec .execute s = .next { s.polled with ph := .arm } := by
  have hb : busy s.cfg s.nextAnswer = false := hb
  simp only [exec, execExecute, hp, poll1Step_eq hc, hb, Bool.false_eq_true, if_false]

/-- The read of EXECUTE that ends POLL2 (R143). -/
theorem exec_execute_of_poll2_done (hp : s.ph = .poll2)
    (hb : s.nextAnswer.getLsbD s.cfg.pollBit.val = false) :
    exec .execute s = .next s.polled.transferDone := by
  have hb : busy s.cfg s.nextAnswer = false := hb
  simp only [exec, execExecute, hp, poll2Step_eq hc, hb, Bool.false_eq_true, if_false]

/-- EXECUTE in ARM (R142). -/
theorem exec_execute_of_arm (hp : s.ph = .arm) : exec .execute s = .next
    { (s.storeCtrl s.cfg.cwIndex.toNat s.cwR).access (.writeControl s.cfg.cwIndex s.cwR) with
      n := s.freshCount, loopReads := s.freshReads, ph := .poll2 } := by
  simp only [exec, execExecute, hp, armStep_eq hc]

end

/-- EXECUTE outside its phases is EXECUTE at the entry of POLL1 (assumption 10). -/
theorem exec_execute_outside {s : State} (h1 : s.ph ≠ .poll1) (ha : s.ph ≠ .arm) (h2 : s.ph ≠ .poll2) :
    exec .execute s =
      exec .execute { s with ph := .poll1, n := s.freshCount, loopReads := s.freshReads } := by
  cases hp : s.ph
  case poll1 => exact absurd hp h1
  case arm => exact absurd hp ha
  case poll2 => exact absurd hp h2
  all_goals simp only [exec, execExecute, hp, State.startCount_eq]

/-! ### The counts of a poll loop -/

theorem SameBytes.of_eq {m m' : Memory} (h : m' = m) : SameBytes m m' := fun _ => by rw [h]

theorem State.not_lastPoll_of_none {s : State} (h : s.cfg.pollLimit = none) : ¬ s.lastPoll := by
  simp [State.lastPoll, h]

theorem State.lastPoll_iff {s : State} {m : Nat} (h : s.cfg.pollLimit = some m) : s.lastPoll ↔ s.n + 1 = m := by
  simp [State.lastPoll, h, eq_comm]

theorem State.countedBusy_none {s : State} (h : s.cfg.pollLimit = none) : s.countedBusy = s.n := if_pos h

theorem State.countedBusy_bounded {s : State} (h : s.cfg.pollLimit ≠ none) : s.countedBusy = s.n + 1 := if_neg h

theorem State.countedReads_bounded {s : State} (h : s.cfg.pollLimit ≠ none) :
    s.countedReads = s.loopReads + 1 := if_neg h

theorem State.freshCounts_none {s : State} (h : s.cfg.pollLimit = none) :
    s.freshCount = s.n ∧ s.freshReads = s.loopReads := ⟨if_pos h, if_pos h⟩

theorem State.freshCounts_bounded {s : State} (h : s.cfg.pollLimit ≠ none) :
    s.freshCount = 0 ∧ s.freshReads = 0 := ⟨if_neg h, if_neg h⟩

/-! ### A busy read -/

/-- From `s` to `t` EXECUTE has made one poll read that shows the busy bit as 1, in the phase `p`, which is POLL1 or
POLL2 (R141, R143). -/
structure BusyRead (p : Phase) (s t : State) : Prop where
  rp : t.rp = some (.readControl s.cfg.pollIndex s.nextAnswer)
  loopReads : t.loopReads = s.countedReads
  unbounded : s.cfg.pollLimit = none → t.ph = p ∧ t.n = s.n ∧ t.rsp = s.rsp ∧ t.faults = s.faults
  bounded : ∀ m, s.cfg.pollLimit = some m →
    t.n = s.n + 1 ∧ (s.n + 1 ≠ m → t.ph = p ∧ t.rsp = s.rsp ∧ t.faults = s.faults) ∧
    (s.n + 1 = m → t.ph = .idle ∧ t.rsp = some ⟨.busTimeout, .noEvent, 0⟩ ∧
      t.faults = s.faults ++ [.busTimeout])
  frame : { t with
    rp := s.rp, answers := s.answers, draws := s.draws, ph := s.ph, n := s.n,
    loopReads := s.loopReads, rsp := s.rsp, faults := s.faults } = s

section
variable {p : Phase} {s t : State} (h : BusyRead p s t)
include h

theorem BusyRead.cmdR : t.cmdR = s.cmdR := (congrArg State.cmdR h.frame :)
theorem BusyRead.k : t.k = s.k := (congrArg State.k h.frame :)
theorem BusyRead.ctrl : t.ctrl = s.ctrl := (congrArg State.ctrl h.frame :)
theorem BusyRead.buf : t.buf = s.buf := (congrArg State.buf h.frame :)

theorem BusyRead.loopReads_bounded (hl : s.cfg.pollLimit ≠ none) : t.loopReads = s.loopReads + 1 :=
  h.loopReads.trans (State.countedReads_bounded hl)

theorem BusyRead.loopReads_none (hl : s.cfg.pollLimit = none) : t.loopReads = s.loopReads :=
  h.loopReads.trans (State.countedReads_none hl)

end

theorem busyRead_of_lastPoll {s : State} (h : s.lastPoll) : BusyRead s.ph s s.polled.pollAgain := by
  have hraise : s.polled.pollAgain = { s.polled with
      n := s.n + 1, rsp := some ⟨.busTimeout, .noEvent, 0⟩, ph := .idle, faults := s.faults ++ [.busTimeout] } :=
    State.pollAgain_of_lastPoll h
  rw [hraise]
  exact {
    rp := rfl
    loopReads := rfl
    unbounded := fun hl => absurd h (State.not_lastPoll_of_none hl)
    bounded := fun m hl => ⟨rfl, fun hne => absurd ((State.lastPoll_iff hl).1 h) hne, fun _ => ⟨rfl, rfl, rfl⟩⟩
    frame := rfl }

theorem busyRead_of_not_lastPoll {s : State} (h : ¬ s.lastPoll) : BusyRead s.ph s s.polled.pollAgain := by
  rw [State.pollAgain_of_not_lastPoll (by exact h)]
  exact {
    rp := rfl
    loopReads := rfl
    unbounded := fun hl => ⟨rfl, State.countedBusy_none hl, rfl, rfl⟩
    bounded := fun m hl => ⟨State.countedBusy_bounded (s := s) (by simp [hl]), fun _ => ⟨rfl, rfl, rfl⟩,
      fun he => absurd ((State.lastPoll_iff hl).2 he) h⟩
    frame := rfl }

theorem busyRead_pollAgain {p : Phase} {s : State} (hp : s.ph = p) : BusyRead p s s.polled.pollAgain := by
  subst hp
  by_cases h : s.lastPoll
  · exact busyRead_of_lastPoll h
  · exact busyRead_of_not_lastPoll h

/-! ### The steps of EXECUTE -/

/-- Settles O14: the read shows the busy bit as 1, or it leads to ARM. -/
theorem pollBeforeArmStep : Obligations.PollBeforeArmStep := by
  intro s hc hp
  cases hb : s.nextAnswer.getLsbD s.cfg.pollBit.val with
  | false =>
    exact ⟨_, exec_execute_of_poll1_done hc hp hb, rfl, fun _ => ⟨rfl, rfl, rfl, rfl⟩, nofun, nofun,
      State.countedReads_bounded, State.countedReads_none, .refl _, .refl _, rfl⟩
  | true =>
    have hread := busyRead_pollAgain hp
    exact ⟨_, exec_execute_of_busy hc (.inl hp) hb, hread.rp, nofun, fun _ => hread.unbounded,
      fun m _ => hread.bounded m, hread.loopReads_bounded, hread.loopReads_none, .of_eq hread.ctrl,
      .of_eq hread.buf, hread.frame⟩

/-- Settles O15: one stored word and its access, and the counts at the entry of the loop. -/
theorem armStepWritesControlWord : Obligations.ArmStepWritesControlWord :=
  fun s hc hp =>
    ⟨_, exec_execute_of_arm hc hp, rfl, Memory.storedWord_storeWord ctrlLanes s.ctrl _ _, rfl,
      State.freshCounts_bounded, State.freshCounts_none, .refl _, rfl⟩

/-- Settles O16: the read shows the busy bit as 1, or the transfer of JB_WRITE or of another command is over. -/
theorem pollAfterArmStep : Obligations.PollAfterArmStep := by
  intro s hc hp
  cases hb : s.nextAnswer.getLsbD s.cfg.pollBit.val with
  | false =>
    refine ⟨_, exec_execute_of_poll2_done hc hp hb, ?_⟩
    by_cases hm : s.cmdR = .write
    · rw [State.transferDone, if_pos (by exact hm)]
      exact ⟨rfl, fun _ => ⟨rfl, rfl, rfl, fun _ => ⟨rfl, rfl, rfl⟩, fun hn => absurd hm hn⟩, nofun, nofun, nofun,
        State.countedReads_bounded, State.countedReads_none, .refl _, .refl _, rfl⟩
    · rw [State.transferDone, if_neg (by exact hm)]
      exact ⟨rfl, fun _ => ⟨rfl, rfl, rfl, fun hw => absurd hw hm, fun _ => ⟨rfl, rfl, rfl⟩⟩, nofun, nofun, nofun,
        State.countedReads_bounded, State.countedReads_none, .refl _, .refl _, rfl⟩
  | true =>
    have hread := busyRead_pollAgain hp
    have hframe := hread.frame
    rw [hread.cmdR, hread.k] at hframe
    exact ⟨_, exec_execute_of_busy hc (.inr hp) hb, hread.rp, nofun, fun _ => ⟨hread.cmdR, hread.k⟩,
      fun _ => hread.unbounded, fun m _ => hread.bounded m, hread.loopReads_bounded, hread.loopReads_none,
      .of_eq hread.ctrl, .of_eq hread.buf, hframe⟩

/-- Settles O17: the step is that of O14, in the state at the entry of POLL1. -/
theorem executeBeginsWithPoll : Obligations.ExecuteBeginsWithPoll := by
  intro s hc h1 ha h2
  obtain ⟨t, ht, hrp, hclear, -, -, -, -, hctrl, hbuf, -⟩ :=
    pollBeforeArmStep { s with ph := .poll1, n := s.freshCount, loopReads := s.freshReads } hc rfl
  exact ⟨t, (exec_execute_outside h1 ha h2).trans ht, ht, hrp, fun hb => (hclear hb).1, hctrl, hbuf⟩

/-! ### A step from every state -/

/-- The graph of R22 leads on from every state. -/
theorem exists_phaseEdge (s : State) : ∃ p, PhaseEdge s p := by
  cases hp : s.ph
  case idle =>
    by_cases hc : s.startsCommand
    · exact ⟨_, .idleClr hp hc⟩
    · exact ⟨_, .idleIdle hp hc⟩
  case clr =>
    by_cases hk : s.k.toNat + 1 = s.cmdR.nClr s.cfg
    · exact ⟨_, .clrFill0 hp hk⟩
    · exact ⟨_, .clrClr hp hk⟩
  case fill0 =>
    cases hm : s.cmdR with
    | reset => exact ⟨_, .fill0Enc hp (.inl hm)⟩
    | ping => exact ⟨_, .fill0Enc hp (.inr hm)⟩
    | read => exact ⟨_, .fill0Errclr hp hm⟩
    | write => exact ⟨_, .fill0Fill1 hp hm⟩
  case fill1 => exact ⟨_, .fill1Errclr hp⟩
  case errclr => exact ⟨_, .errclrEnc hp⟩
  case enc => exact ⟨_, .encPoll1 hp⟩
  case poll1 =>
    by_cases hb : s.seesBusy
    · by_cases hl : s.lastPoll
      · exact ⟨_, .timeout (.inl hp) hb hl⟩
      · exact ⟨_, .poll1Poll1 hp hb hl⟩
    · exact ⟨_, .poll1Arm hp hb⟩
  case arm => exact ⟨_, .armPoll2 hp⟩
  case poll2 =>
    by_cases hb : s.seesBusy
    · by_cases hl : s.lastPoll
      · exact ⟨_, .timeout (.inr hp) hb hl⟩
      · exact ⟨_, .poll2Poll2 hp hb hl⟩
    · by_cases hm : s.cmdR = .write
      · exact ⟨_, .poll2Clr hp hb hm⟩
      · exact ⟨_, .poll2Resp hp hb hm⟩
  case resp => exact ⟨_, .respIdle hp⟩

/-- Under a well-formed configuration an own step stops only in the RESP step of JB_WRITE (R157). -/
theorem exists_ownStep {s : State} (ho : s.ownStep) (hc : s.cfg.wellFormed = true)
    (hw : s.ph = .resp → s.cmdR ≠ .write) : ∃ t, step s = .next t ∧ OwnStep s t := by
  obtain ⟨p, hedge⟩ := exists_phaseEdge s
  obtain ⟨t, hrow, -⟩ := ownStep_of_phaseEdge hedge hw
  exact ⟨t, step_of_ownStep ho hc hrow, hrow⟩

/-- Settles O48: a reset edge, or an own step, which the invariant keeps from the RESP step of JB_WRITE. -/
theorem invariantStepNeverStops : Obligations.InvariantStepNeverStops := by
  intro s h
  cases hr : s.rst with
  | true => exact ⟨_, step_of_rst hr⟩
  | false =>
    obtain ⟨t, hs, -⟩ := exists_ownStep ⟨hr, h.notPresented⟩ h.cfg h.resp
    exact ⟨t, hs⟩

/-! ### The poll loops -/

/-- The poll loop goes on from `s` to `t`: they differ at most in the answers used up, the ports and the counts. -/
def SameLoop (s t : State) : Prop :=
  { t with
    answers := s.answers, draws := s.draws, rp := s.rp, rsp := s.rsp, n := s.n, loopReads := s.loopReads } = s

theorem SameLoop.refl (s : State) : SameLoop s s := rfl

theorem SameLoop.trans {s t u : State} (hst : SameLoop s t) (htu : SameLoop t u) : SameLoop s u := by
  unfold SameLoop at *
  rw [← htu] at hst
  exact hst

section
variable {s t : State} (h : SameLoop s t)
include h

theorem SameLoop.cfg : t.cfg = s.cfg := (congrArg State.cfg h :)
theorem SameLoop.ph : t.ph = s.ph := (congrArg State.ph h :)
theorem SameLoop.conn : t.conn = s.conn := (congrArg State.conn h :)
theorem SameLoop.cmdR : t.cmdR = s.cmdR := (congrArg State.cmdR h :)
theorem SameLoop.reqs : t.reqs = s.reqs := (congrArg State.reqs h :)
theorem SameLoop.ctrl : t.ctrl = s.ctrl := (congrArg State.ctrl h :)
theorem SameLoop.buf : t.buf = s.buf := (congrArg State.buf h :)

theorem SameLoop.ownStep (ho : s.ownStep) : t.ownStep :=
  ⟨(congrArg State.rst h).trans ho.1, (congrArg State.presented h).trans ho.2⟩

end

/-- From `s` to `t` an own step has made one read of a poll loop (R141, R143, R145). -/
structure PollStep (s t : State) : Prop where
  conn : t.conn = s.conn
  ctrl : t.ctrl = s.ctrl
  buf : t.buf = s.buf
  answers : t.answers = s.answers.tail
  again : s.seesBusy → ¬ s.lastPoll → SameLoop s t ∧ t.rsp = none ∧ t.n = s.countedBusy
  timeout : s.seesBusy → s.lastPoll → t.ph = .idle ∧ t.rsp = some ⟨.busTimeout, .noEvent, 0⟩
  done : ¬ s.seesBusy → t.rsp = none ∧ (s.ph = .poll1 → t.ph = .arm) ∧
    (s.ph = .poll2 → t.ph = if s.cmdR = .write then .clr else .resp)

/-- The rows of a poll phase are one read each. -/
theorem OwnStep.pollStep {s t : State} (h : OwnStep s t) (hp : s.ph = .poll1 ∨ s.ph = .poll2) : PollStep s t := by
  cases h
  case pollAgain _ hb hl =>
    exact ⟨rfl, rfl, rfl, rfl, fun _ _ => ⟨rfl, rfl, rfl⟩, fun _ h => absurd h hl, absurd hb⟩
  case timeout _ hb hl =>
    exact ⟨rfl, rfl, rfl, rfl, fun _ h => absurd hl h, fun _ _ => ⟨rfl, rfl⟩, absurd hb⟩
  case poll1Done e hb =>
    exact ⟨rfl, rfl, rfl, rfl, fun h => absurd h hb, fun h => absurd h hb,
      fun _ => ⟨rfl, fun _ => rfl, fun h => nomatch e.symm.trans h⟩⟩
  case poll2Write e hb hm =>
    exact ⟨rfl, rfl, rfl, rfl, fun h => absurd h hb, fun h => absurd h hb,
      fun _ => ⟨rfl, fun h => (nomatch e.symm.trans h), fun _ => (if_pos hm).symm⟩⟩
  case poll2Done e hb hm =>
    exact ⟨rfl, rfl, rfl, rfl, fun h => absurd h hb, fun h => absurd h hb,
      fun _ => ⟨rfl, fun h => (nomatch e.symm.trans h), fun _ => (if_neg hm).symm⟩⟩
  all_goals exact absurd hp (by simp [‹s.ph = _›])

/-- A block in a poll phase always has a step (R144): one more read. -/
theorem step_poll {s : State} (ho : s.ownStep) (hc : s.cfg.wellFormed = true)
    (hp : s.ph = .poll1 ∨ s.ph = .poll2) : ∃ t, step s = .next t ∧ PollStep s t := by
  obtain ⟨t, hs, hrow⟩ := exists_ownStep ho hc (fun hr => by simp [hr] at hp)
  exact ⟨t, hs, hrow.pollStep hp⟩

/-- A run ends with its last step. -/
theorem run_concat {s t u : State} {n : Nat} (hrun : core.run n s = .next t) (hs : step t = .next u) :
    core.run (n + 1) s = .next u := (run_add n 1 hrun).trans (run_succ 0 hs)

theorem State.seesBusy_iff {s : State} {r : Word} {more : List Word} (h : s.answers = r :: more) :
    s.seesBusy ↔ r.getLsbD s.cfg.pollBit.val = true := by
  rw [State.seesBusy, State.nextAnswer_of_cons h]

/-- Busy reads that do not come to the bound keep the block in its poll loop, with each of them counted where `n`
exists (R144, R145). -/
theorem run_busy (bs : List Word) {s : State} {more : List Word} (ho : s.ownStep) (hc : s.cfg.wellFormed = true)
    (hp : s.ph = .poll1 ∨ s.ph = .poll2) (ha : s.answers = bs ++ more)
    (hb : ∀ r ∈ bs, r.getLsbD s.cfg.pollBit.val = true) (hroom : ∀ m ∈ s.cfg.pollLimit, s.n + bs.length < m) :
    ∃ t : State, core.run bs.length s = .next t ∧ SameLoop s t ∧ t.answers = more ∧
      (s.cfg.pollLimit ≠ none → t.n = s.n + bs.length) := by
  induction bs generalizing s with
  | nil => exact ⟨s, rfl, .refl s, ha, fun _ => rfl⟩
  | cons r rest ih =>
    have hbusy : s.seesBusy := (State.seesBusy_iff ha).2 (hb r List.mem_cons_self)
    have hlast : ¬ s.lastPoll := fun hl => absurd (hroom _ hl) (by simp)
    obtain ⟨u, hs, hu⟩ := step_poll ho hc hp
    obtain ⟨hloop, -, hn⟩ := hu.again hbusy hlast
    have hau : u.answers = rest ++ more := by rw [hu.answers, ha]; rfl
    have hcount : s.cfg.pollLimit ≠ none → u.n = s.n + 1 := fun hl => hn.trans (State.countedBusy_bounded hl)
    have hbu : ∀ b ∈ rest, b.getLsbD u.cfg.pollBit.val = true := fun b hmem => by
      rw [hloop.cfg]
      exact hb b (List.mem_cons_of_mem r hmem)
    have hroomu : ∀ m ∈ u.cfg.pollLimit, u.n + rest.length < m := fun m hm => by
      rw [hloop.cfg] at hm
      have hlt := hroom m hm
      rw [List.length_cons] at hlt
      rw [hcount (by rw [hm]; nofun)]
      omega
    obtain ⟨t, hrun, hloop', hat, hnt⟩ :=
      ih (hloop.ownStep ho) (hloop.cfg ▸ hc) (hloop.ph ▸ hp) hau hbu hroomu
    refine ⟨t, (run_succ _ hs).trans hrun, hloop.trans hloop', hat, fun hl => ?_⟩
    rw [hnt (hloop.cfg ▸ hl), hcount hl, List.length_cons]
    omega

/-- Settles O18: the run of all busy reads but the last, and one more busy read. -/
theorem unboundedPollNeverLeaves : Obligations.UnboundedPollNeverLeaves := by
  intro s bs more ho hc hl hp ha hne hb
  obtain ⟨init, r, rfl⟩ := (List.eq_nil_or_concat' bs).resolve_left hne
  obtain ⟨t, hrun, hst, hat, -⟩ := run_busy init (more := r :: more) ho hc hp (by simpa using ha)
    (fun b hmem => hb b (by simp [hmem])) (by simp [hl])
  obtain ⟨u, hs, hu⟩ := step_poll (hst.ownStep ho) (hst.cfg ▸ hc) (hst.ph ▸ hp)
  have hbusy : t.seesBusy := (State.seesBusy_iff hat).2 (by rw [hst.cfg]; exact hb r (by simp))
  obtain ⟨htu, hrsp, -⟩ := hu.again hbusy (State.not_lastPoll_of_none (hst.cfg ▸ hl))
  have hsu := hst.trans htu
  have hready : u.reqReady = false := by
    obtain hp | hp := hp <;> simp [State.reqReady, hsu.ph, hp]
  refine ⟨u, ?_, hsu.ph, hrsp, hsu.reqs, hready, by rw [hu.answers, hat]; rfl, hsu.conn, .of_eq hsu.ctrl,
    .of_eq hsu.buf⟩
  rw [List.length_append]
  exact run_concat hrun hs

/-- Settles O19: the run of the busy reads below the bound, and one more read, which is the `m`-th or not. -/
theorem boundedPollTimesOut : Obligations.BoundedPollTimesOut := by
  intro s m bs r more ho hc hl hp hn ha hlt hb
  have hroom : ∀ x ∈ s.cfg.pollLimit, s.n + bs.length < x := fun x hx => by
    obtain rfl : m = x := Option.some.inj (hl.symm.trans hx)
    omega
  obtain ⟨t, hrun, hst, hat, hcount⟩ := run_busy bs ho hc hp ha hb hroom
  have hnt : t.n = bs.length := by rw [hcount (by simp [hl]), hn, Nat.zero_add]
  have hl' : t.cfg.pollLimit = some m := hst.cfg ▸ hl
  obtain ⟨u, hs, hu⟩ := step_poll (hst.ownStep ho) (hst.cfg ▸ hc) (hst.ph ▸ hp)
  have hbusy : t.seesBusy ↔ r.getLsbD s.cfg.pollBit.val = true := by rw [State.seesBusy_iff hat, hst.cfg]
  have hlast : t.lastPoll ↔ bs.length + 1 = m := by rw [State.lastPoll_iff hl', hnt]
  refine ⟨u, run_concat hrun hs, hu.conn.trans hst.conn, .of_eq (hu.ctrl.trans hst.ctrl),
    .of_eq (hu.buf.trans hst.buf), by rw [hu.answers, hat]; rfl,
    fun hr hm => hu.timeout (hbusy.2 hr) (hlast.2 hm), fun hr hm => ?_, fun hr => ?_⟩
  · obtain ⟨htu, hrsp, hnu⟩ := hu.again (hbusy.2 hr) (mt hlast.1 hm)
    exact ⟨htu.ph.trans hst.ph, hrsp, by rw [hnu, State.countedBusy_bounded (by simp [hl']), hnt]⟩
  · have hdone := hu.done (by rw [hbusy, hr]; decide)
    rwa [hst.ph, hst.cmdR] at hdone

end Sys2Proof.Machine
end

section
/-! SUPPORT. The JOYBUS Command Set (R151 to R157): the step of a command in each of its phases from CLR to ENC, a
command as it begins, and the whole clearing loop. -/

namespace Sys2Proof.Machine

/-! ### The command in progress, phase by phase -/

section
variable {s : State}

theorem exec_command_of_clr (hp : s.ph = .clr) : exec (s.cmdR.instr s.valR) s = .next (clrStep s) := by
  rw [exec_command (by simp [hp]), phaseStep, hp]

theorem exec_command_of_fill0 (hp : s.ph = .fill0) : exec (s.cmdR.instr s.valR) s = .next (fill0Step s) := by
  rw [exec_command (by simp [hp]), phaseStep, hp]

theorem exec_jbWrite_of_fill1 (hp : s.ph = .fill1) (hm : s.cmdR = .write) :
    exec (.jbWrite s.valR) s = .next (fill1Step s) := by
  rw [exec_jbWrite_of_busy hm (by simp [hp]), phaseStep, hp]

/-- A command in ERRCLR under a well-formed CFG: the write of the pattern, and its access (R155). -/
theorem exec_command_of_errclr (hc : s.cfg.wellFormed = true) (hp : s.ph = .errclr) :
    exec (s.cmdR.instr s.valR) s = .next
      { (s.storeCtrl s.cfg.errclrIndex.toNat s.cfg.errclrValue).access
          (.writeControl s.cfg.errclrIndex s.cfg.errclrValue) with ph := .enc } := by
  rw [exec_command (by simp [hp]), phaseStep, hp]
  exact errclrStep_eq hc

/-- A command in ENC under a well-formed CFG: the status-clear write and its access, the command's control word in
`cw_r`, and the counts at the entry of the poll loop (R156). -/
theorem exec_command_of_enc (hc : s.cfg.wellFormed = true) (hp : s.ph = .enc) :
    exec (s.cmdR.instr s.valR) s = .next
      { (s.storeCtrl s.cfg.statusIndex.toNat s.cfg.statusClearValue).access
          (.writeControl s.cfg.statusIndex s.cfg.statusClearValue) with
        cwR := commandWord s.cfg s.cmdR, n := s.freshCount, loopReads := s.freshReads, ph := .poll1 } := by
  rw [exec_command (by simp [hp]), phaseStep, hp]
  exact encStep_eq hc

/-! ### The clear step -/

theorem clrStep_of_last (h : s.k.toNat + 1 = s.cmdR.nClr s.cfg) :
    clrStep s = { writeBuffer s.k 0 s with ph := .fill0 } := if_pos h

theorem clrStep_of_not_last (h : s.k.toNat + 1 ≠ s.cmdR.nClr s.cfg) :
    clrStep s = { writeBuffer s.k 0 s with k := s.k + 1 } := if_neg h

end

/-- Settles O20: the last word or one before it, with the same write to the buffer. -/
theorem clearStepZeroesOneWord : Obligations.ClearStepZeroesOneWord := by
  intro s hp
  have hstored := Memory.storedWord_storeWord s.cfg.laneOrder s.buf s.k.toNat 0
  refine ⟨_, exec_command_of_clr hp, ?_⟩
  by_cases hk : s.k.toNat + 1 = s.cmdR.nClr s.cfg
  · rw [clrStep_of_last hk]
    exact ⟨hstored, rfl, fun _ => ⟨rfl, rfl⟩, fun hne => absurd hk hne, .refl _, rfl⟩
  · rw [clrStep_of_not_last hk]
    exact ⟨hstored, rfl, fun he => absurd he hk, fun _ => ⟨hp, rfl⟩, .refl _, rfl⟩

/-! ### The fill steps -/

/-- Settles O21: one stored word and its access, and the phase that `afterFill0` gives each command. -/
theorem fill0StepWritesFirstWord : Obligations.Fill0StepWritesFirstWord :=
  fun _ hp =>
    ⟨_, exec_command_of_fill0 hp, Memory.storedWord_storeWord _ _ 0 _, rfl, congrArg afterFill0,
      congrArg afterFill0, Or.rec (congrArg afterFill0) (congrArg afterFill0), .refl _, rfl⟩

/-- Settles O22: one stored word and its access. -/
theorem fill1StepWritesSecondWord : Obligations.Fill1StepWritesSecondWord :=
  fun _ hp hm =>
    ⟨_, exec_jbWrite_of_fill1 hp hm, rfl, Memory.storedWord_storeWord _ _ 1 _, rfl, .refl _, rfl⟩

/-! ### The control register writes before the transfer -/

/-- Settles O23: the step does not look at the command, so that the pattern is the same for both. -/
theorem errclrStepWritesPattern : Obligations.ErrclrStepWritesPattern :=
  fun s hc hp _ =>
    ⟨_, exec_command_of_errclr hc hp, rfl, Memory.storedWord_storeWord ctrlLanes s.ctrl _ _, rfl, .refl _, rfl⟩

/-- Settles O24: the command's control word is the word of ENCODE on its operands, and the rest of the step is the
entry of the poll loop. -/
theorem encStepEvaluatesEncode : Obligations.EncStepEvaluatesEncode :=
  fun s hc hp =>
    ⟨_, _, exec_command_of_enc hc hp, exec_encode hc _ _ _, rfl, rfl,
      Memory.storedWord_storeWord ctrlLanes s.ctrl _ _, .refl _, rfl⟩

/-! ### RESP of JB_WRITE -/

/-- Settles O28: the command in progress takes the RESP step, which has no arm for it. -/
theorem respAfterWriteFaults : Obligations.RespAfterWriteFaults := by
  intro s hp hm
  rw [exec_jbWrite_of_busy hm (by simp [hp]), phaseStep, hp, respStep, hm]

/-! ### A command as it begins -/

/-- A command invoked in IDLE is latched, JB_WRITE with its Link Value, and takes its first CLR step (assumption 9). -/
theorem exec_command_of_idle {s : State} (hp : s.ph = .idle) (c : Command) (v : Word) :
    exec (c.instr v) s = .next (clrStep { s.begin c with valR := if c = .write then v else s.valR }) := by
  cases c <;>
    simp [Command.instr, exec, execJbReset, execJbPing, execJbRead, execJbWrite, State.enter, State.enterWrite, hp,
      phaseStep, State.begin]

/-- Settles O29: the first CLR step is not the last, as every command clears at least 8 words. -/
theorem commandBeginsWithFirstClear : Obligations.CommandBeginsWithFirstClear := by
  intro s c v hc hp
  have hmore : 0 + 1 ≠ c.nClr s.cfg := by obtain h | h := c.nClr_cases hc <;> omega
  have hexec := exec_command_of_idle hp c v
  rw [clrStep_of_not_last (by exact hmore)] at hexec
  exact ⟨_, hexec, rfl, rfl, rfl, fun hw => if_pos hw, fun hw => if_neg hw,
    Memory.storedWord_storeWord _ s.buf 0 0, rfl, .refl _, rfl⟩

/-! ### The clearing loop -/

/-- From `s` to `t` the first `n` buffer words have been zeroed, with no field changed but those that CLR writes and
the ports. -/
structure Cleared (n : Nat) (s t : State) : Prop where
  zeroed : ∀ a, a < 4 * n → t.wireByte a = some 0
  others : ∀ a, 4 * n ≤ a → t.wireByte a = s.wireByte a
  frame : { t with buf := s.buf, rp := s.rp, rsp := s.rsp, ph := s.ph, k := s.k } = s

theorem Cleared.refl (s : State) : Cleared 0 s s := ⟨nofun, fun _ _ => rfl, rfl⟩

section
variable {n : Nat} {s t : State} (h : Cleared n s t)
include h

theorem Cleared.cfg : t.cfg = s.cfg := (congrArg State.cfg h.frame :)
theorem Cleared.cmdR : t.cmdR = s.cmdR := (congrArg State.cmdR h.frame :)
theorem Cleared.ctrl : t.ctrl = s.ctrl := (congrArg State.ctrl h.frame :)

theorem Cleared.ownStep (ho : s.ownStep) : t.ownStep :=
  ⟨(congrArg State.rst h.frame :).trans ho.1, (congrArg State.presented h.frame :).trans ho.2⟩

/-- Zeroing the next word clears one word more, whatever becomes of the ports, `ph` and `k`. -/
theorem Cleared.storeZero (rp : Option Access) (rsp : Option Response) (ph : Phase) (k : BitVec 5) :
    Cleared (n + 1) s { t with
      buf := Memory.storeWord t.cfg.laneOrder t.buf n 0, rp := rp, rsp := rsp, ph := ph, k := k } := by
  obtain ⟨hlane, hother⟩ := Memory.storedWord_storeWord t.cfg.laneOrder t.buf n 0
  refine ⟨fun a ha => ?_, fun a ha => (hother a (.inr (by omega))).trans (h.others a (by omega)), h.frame⟩
  by_cases han : a < 4 * n
  · exact (hother a (.inl han)).trans (h.zeroed a han)
  · obtain ⟨j, rfl⟩ := Nat.exists_eq_add_of_le (Nat.le_of_not_lt han)
    exact (hlane j (by omega)).trans (congrArg some (laneByte_zero _ j))

end

theorem Command.nClr_le {cfg : Cfg} (h : cfg.wellFormed = true) (c : Command) : c.nClr cfg ≤ 32 := by
  obtain hc | hc := c.nClr_cases h <;> omega

/-- Before the last word the loop stays in CLR, with one word cleared by each step and `k` as their number (R152). -/
theorem run_clear {s : State} (ho : s.ownStep) (hc : s.cfg.wellFormed = true) (hp : s.ph = .clr) (hk : s.k = 0)
    {n : Nat} (hn : n < s.cmdR.nClr s.cfg) :
    ∃ t : State, core.run n s = .next t ∧ t.ph = .clr ∧ t.k.toNat = n ∧ Cleared n s t := by
  induction n with
  | zero => exact ⟨s, rfl, hp, by rw [hk]; rfl, .refl s⟩
  | succ n ih =>
    obtain ⟨t, hrun, hpt, hkt, hst⟩ := ih (by omega)
    have hmore : t.k.toNat + 1 ≠ t.cmdR.nClr t.cfg := by rw [hst.cfg, hst.cmdR]; omega
    have hroom : t.k.toNat + 1 < 32 := by have := s.cmdR.nClr_le hc; omega
    have hstep := step_of_ownStep (hst.ownStep ho) (hst.cfg ▸ hc) (.clearMore hpt hmore)
    refine ⟨_, run_concat hrun hstep, hpt, ?_, ?_⟩
    · rw [← hkt]
      exact BitVec.toNat_add_of_lt hroom
    · rw [hkt]
      exact hst.storeZero _ _ _ _

/-- Settles O32: the steps before the last word, and the step of the last word, which leads to FILL0. -/
theorem clearLoopZeroesBuffer : Obligations.ClearLoopZeroesBuffer := by
  intro s ho hc hp hk
  obtain ⟨n, hn⟩ := Nat.exists_eq_add_one.2 (s.cmdR.nClr_pos hc)
  obtain ⟨t, hrun, hpt, hkt, hst⟩ := run_clear ho hc hp hk (n := n) (by omega)
  have hlast : t.k.toNat + 1 = t.cmdR.nClr t.cfg := by rw [hkt, hst.cfg, hst.cmdR, hn]
  have hstep := step_of_ownStep (hst.ownStep ho) (hst.cfg ▸ hc) (.clearLast hpt hlast)
  rw [hkt] at hstep
  have hall := hst.storeZero (some (.writeBuffer t.k 0)) none .fill0 t.k
  rw [hn]
  exact ⟨_, run_concat hrun hstep, rfl, congrArg (· + 1) hkt, hall.zeroed, hall.others, .of_eq hall.ctrl,
    hall.frame⟩

end Sys2Proof.Machine
end

section
/-! SUPPORT. The Presence State Machine in one step (R170 to R177): the acceptance of a request in IDLE, the RESP step
that ends a tick, and the rows on which `conn` changes. -/

namespace Sys2Proof.Machine

/-! ### The acceptance of a request -/

theorem exec_tick_of_idle {s : State} {c : Command} (h : s.ph = .idle) (hc : tickCommand s.conn = c) (v : Word) :
    exec (.tick v) s = .next { s.begin c with opR := .tick } := by
  simp only [exec, execTick, h, hc]

theorem exec_transact_of_idle {s : State} (h : s.ph = .idle) (hn : s.conn = .connected) (v : Word) :
    exec (.transact v) s = .next { s.begin .write with opR := .transact, valR := v } := by
  simp only [exec, execTransact, h, hn]

/-- Settles O33: the command of the tick is that of the connection state. -/
theorem tickStartsIdentifyCommand : Obligations.TickStartsIdentifyCommand :=
  fun _ v hp => ⟨fun hn => exec_tick_of_idle hp (congrArg tickCommand hn) v,
    fun hn => exec_tick_of_idle hp (congrArg tickCommand hn) v⟩

/-- Settles O34: the row of R170 for a TRANSACT while Connected. -/
theorem transactStartsWriteCommand : Obligations.TransactStartsWriteCommand :=
  fun _ v hp hn => exec_transact_of_idle hp hn v

theorem tickCommand_eq_ite (c : Conn) : tickCommand c = if c = .disconnected then .reset else .ping := by
  cases c <;> rfl

/-- The operand of a host request is its low 32 bits (R81). -/
theorem setWidth_eq_extractLsb'_hostReq (w : HostReqWord) : w.setWidth 32 = w.extractLsb' 0 32 :=
  BitVec.setWidth_eq_extractLsb' (by decide)

/-- Settles O37: each case is the row of an own step for it. -/
theorem idleStepAcceptsOneRequest : Obligations.IdleStepAcceptsOneRequest := by
  intro s ho hc hp
  refine ⟨fun hq => step_of_ownStep ho hc (.wait hp hq), fun w rest hq hw => ?_, fun w rest hq hw hn => ?_,
    fun w rest hq hw hn => step_of_ownStep ho hc (.notConnected w rest hp hq hw hn)⟩
  · rw [step_of_ownStep ho hc (.tick w rest hp hq hw), tickCommand_eq_ite]
  · rw [step_of_ownStep ho hc (.transact w rest hp hq hw hn), setWidth_eq_extractLsb'_hostReq]

/-! ### The end of a tick -/

theorem present_iff (rw : Word) : present rw = true ↔ rw.extractLsb' 16 16 = 0x0004#16 := beq_iff_eq

theorem exec_command_of_resp {s : State} (hp : s.ph = .resp) : exec (s.cmdR.instr s.valR) s = respStep s := by
  rw [exec_command (by simp [hp]), phaseStep, hp]

theorem exec_jbReset_of_resp {s : State} (hp : s.ph = .resp) (hm : s.cmdR = .reset) :
    exec .jbReset s =
      .next (finishTickDisconnected s.nextAnswer { readBuffer 0 s with rwR := s.nextAnswer, ph := .idle }) := by
  have h := exec_command_of_resp hp
  rwa [hm, respStep, hm] at h

theorem exec_jbPing_of_resp {s : State} (hp : s.ph = .resp) (hm : s.cmdR = .ping) :
    exec .jbPing s =
      .next (finishTickConnected s.nextAnswer { readBuffer 0 s with rwR := s.nextAnswer, ph := .idle }) := by
  have h := exec_command_of_resp hp
  rwa [hm, respStep, hm] at h

/-- Settles O25: the peripheral is present, and `conn` is set, or it is not. -/
theorem resetResponseAttaches : Obligations.ResetResponseAttaches := by
  intro s hp hm hn
  refine ⟨_, exec_jbReset_of_resp hp hm, ?_⟩
  by_cases hid : s.nextAnswer.extractLsb' 16 16 = 0x0004#16
  · rw [finishTickDisconnected, if_pos ((present_iff _).2 hid)]
    exact ⟨rfl, rfl, rfl, fun _ => ⟨rfl, rfl, rfl⟩, fun h => absurd hid h, .refl _, .refl _, rfl⟩
  · rw [finishTickDisconnected, if_neg (mt (present_iff _).1 hid)]
    exact ⟨rfl, rfl, rfl, fun h => absurd h hid, fun _ => ⟨hn, congrArg (· == .connected) hn, rfl⟩, .refl _,
      .refl _, rfl⟩

/-- Settles O26: the peripheral is present, or it is not, and `conn` is cleared. -/
theorem pingResponseDetaches : Obligations.PingResponseDetaches := by
  intro s hp hm hn
  refine ⟨_, exec_jbPing_of_resp hp hm, ?_⟩
  by_cases hid : s.nextAnswer.extractLsb' 16 16 = 0x0004#16
  · rw [finishTickConnected, if_pos ((present_iff _).2 hid)]
    exact ⟨rfl, rfl, rfl, fun h => absurd hid h, fun _ => ⟨hn, congrArg (· == .connected) hn, rfl⟩, .refl _,
      .refl _, rfl⟩
  · rw [finishTickConnected, if_neg (mt (present_iff _).1 hid)]
    exact ⟨rfl, rfl, rfl, fun _ => ⟨rfl, rfl, rfl⟩, fun h => absurd h hid, .refl _, .refl _, rfl⟩

/-! ### The edges on which `conn` changes -/

theorem eq_disconnected_of_tickCommand {c : Conn} (h : .reset = tickCommand c) : c = .disconnected := by
  cases c with
  | disconnected => rfl
  | connected => cases h

theorem eq_connected_of_tickCommand {c : Conn} (h : .ping = tickCommand c) : c = .connected := by
  cases c with
  | disconnected => cases h
  | connected => rfl

/-- JB_RESET is in progress only for a TICK while Disconnected (R22, R170). -/
theorem State.opMatches.of_reset {s : State} (h : s.opMatches) (hm : s.cmdR = .reset) :
    s.opR = .tick ∧ s.conn = .disconnected := by
  have ho := h.opR_of_identify (.inl hm)
  simp only [State.opMatches, ho, hm] at h
  exact ⟨ho, eq_disconnected_of_tickCommand h⟩

/-- JB_PING is in progress only for a TICK while Connected (R22, R170). -/
theorem State.opMatches.of_ping {s : State} (h : s.opMatches) (hm : s.cmdR = .ping) :
    s.opR = .tick ∧ s.conn = .connected := by
  have ho := h.opR_of_identify (.inr hm)
  simp only [State.opMatches, ho, hm] at h
  exact ⟨ho, eq_connected_of_tickCommand h⟩

/-- What a step from `s` to `t` does to `conn`, with the event it presents (R174). -/
inductive ConnEdge (s t : State) : Prop where
  /-- `conn` stays, and no event is produced -/
  | stays : t.conn = s.conn → (∀ r, t.rsp = some r → r.event = .noEvent) → ConnEdge s t
  /-- the tick of JB_RESET attaches (R171) -/
  | attaches (r : Response) : s.ph = .resp → s.opR = .tick → s.cmdR = .reset → s.conn = .disconnected →
      t.conn = .connected → t.rsp = some r → r.event = .attached → ConnEdge s t
  /-- the tick of JB_PING detaches (R172) -/
  | detaches (r : Response) : s.ph = .resp → s.opR = .tick → s.cmdR = .ping → s.conn = .connected →
      t.conn = .disconnected → t.rsp = some r → r.event = .detached → ConnEdge s t

theorem ConnEdge.of_noEvent {s t : State} {err : RspErr} {v : Word} (hn : t.conn = s.conn)
    (hr : t.rsp = some ⟨err, .noEvent, v⟩) : ConnEdge s t := by
  refine .stays hn fun r h => ?_
  cases hr.symm.trans h
  rfl

/-- Only the RESP rows of JB_RESET and JB_PING touch `conn` or give an event. -/
theorem OwnStep.connEdge {s t : State} (h : OwnStep s t) (hop : s.ph ≠ .idle → s.opMatches) : ConnEdge s t := by
  have hresp (hp : s.ph = .resp) : s.opMatches := hop (by simp [hp])
  cases h
  case respReset hp hm =>
    obtain ⟨ho, hn⟩ := (hresp hp).of_reset hm
    cases hid : present s.nextAnswer with
    | true => exact .attaches _ hp ho hm hn rfl rfl rfl
    | false => exact .of_noEvent rfl rfl
  case respPing hp hm =>
    obtain ⟨ho, hn⟩ := (hresp hp).of_ping hm
    cases hid : present s.nextAnswer with
    | true => exact .of_noEvent rfl rfl
    | false => exact .detaches _ hp ho hm hn rfl rfl rfl
  case notConnected => exact .of_noEvent rfl rfl
  case timeout => exact .of_noEvent rfl rfl
  case respRead => exact .of_noEvent rfl rfl
  all_goals exact .stays rfl nofun

/-- Settles O38: the three kinds of edge, each of which fixes `conn` before and after and the event. -/
theorem connChangesOnlyOnDetectionTick : Obligations.ConnChangesOnlyOnDetectionTick := by
  intro s t hi hr hs
  cases (ownStep_of_step ⟨hr, hi.notPresented⟩ hs).2.connEdge hi.op with
  | stays hconn hev =>
    have hmove {c c' : Conn} (hne : c ≠ c') : ¬ (t.conn = c ∧ s.conn = c') := fun ⟨ht, hs⟩ =>
      hne (ht.symm.trans (hconn.trans hs))
    have hquiet {e : RspEvent} (hne : .noEvent ≠ e) : ¬ ∃ r, t.rsp = some r ∧ r.event = e :=
      fun ⟨r, hrsp, he⟩ => hne ((hev r hrsp).symm.trans he)
    exact ⟨absurd hconn, iff_of_false (hmove nofun) (hquiet nofun), iff_of_false (hmove nofun) (hquiet nofun),
      fun hd hc => absurd ⟨hc, hd⟩ (hmove nofun), fun hc hd => absurd ⟨hd, hc⟩ (hmove nofun)⟩
  | attaches r hp ho hm hn hconn hrsp hev => simp [*]
  | detaches r hp ho hm hn hconn hrsp hev => simp [*]

end Sys2Proof.Machine
end

section
/-! SUPPORT. Whole host operations (R173, R174, R175, R242): a command from CLR to the last read of POLL2, in parts that
are put together with their lengths and the answers they use up, and between the acceptance of the request and the RESP
step that ends it. -/

namespace Sys2Proof.Machine

/-! ### Runs inside a command -/

/-- The state `t` with the fields that the steps of a command write put back as they were in `s`. -/
def State.putBack (s t : State) : State :=
  { t with
    ph := s.ph, k := s.k, cwR := s.cwR, n := s.n, loopReads := s.loopReads, ctrl := s.ctrl, buf := s.buf,
    rp := s.rp, rsp := s.rsp, answers := s.answers, draws := s.draws }

/-- `t` is at most further on in the command of `s`: what the request and the connection gave it is as it was. -/
def SameCommand (s t : State) : Prop := s.putBack t = s

/-- A run of `n` steps leads from `s` to `t` inside one command, and uses up the answers `used`. -/
structure Leads (n : Nat) (used : List Word) (s t : State) : Prop where
  run : core.run n s = .next t
  same : SameCommand s t
  answers : s.answers = used ++ t.answers

section
variable {m n : Nat} {as bs : List Word} {s t u : State}

theorem SameCommand.trans (hst : SameCommand s t) (htu : SameCommand t u) : SameCommand s u :=
  (congrArg s.putBack htu :).trans hst

theorem Leads.trans (hst : Leads m as s t) (htu : Leads n bs t u) : Leads (m + n) (as ++ bs) s u where
  run := (run_add m n hst.run).trans htu.run
  same := hst.same.trans htu.same
  answers := by rw [hst.answers, htu.answers, List.append_assoc]

/-- A row of an own step that stays in the command is a run of one step. -/
theorem OwnStep.leads (h : OwnStep s t) (ho : s.ownStep) (hc : s.cfg.wellFormed = true) (hsame : SameCommand s t)
    (ha : s.answers = as ++ t.answers) : Leads 1 as s t :=
  ⟨run_succ 0 (step_of_ownStep ho hc h), hsame, ha⟩

section
variable (h : Leads n as s t)
include h

theorem Leads.cfg : t.cfg = s.cfg := (congrArg State.cfg h.same :)
theorem Leads.cmdR : t.cmdR = s.cmdR := (congrArg State.cmdR h.same :)
theorem Leads.conn : t.conn = s.conn := (congrArg State.conn h.same :)
theorem Leads.valR : t.valR = s.valR := (congrArg State.valR h.same :)
theorem Leads.reqs : t.reqs = s.reqs := (congrArg State.reqs h.same :)

theorem Leads.wellFormed (hc : s.cfg.wellFormed = true) : t.cfg.wellFormed = true := h.cfg ▸ hc

theorem Leads.ownStep (ho : s.ownStep) : t.ownStep :=
  ⟨(congrArg State.rst h.same :).trans ho.1, (congrArg State.presented h.same :).trans ho.2⟩

/-- The answers left are those after the ones used up. -/
theorem Leads.answers_left {more : List Word} (ha : s.answers = as ++ more) : t.answers = more :=
  List.append_cancel_left (h.answers.symm.trans ha)

end

end

/-! ### The parts of a command -/

/-- The steps of a command from FILL0 to ENC (R22). -/
def Command.fillSteps : Command → Nat
  | .reset | .ping => 2
  | .read => 3
  | .write => 4

/-- `n` at the entry of a poll loop, where it exists (R145). -/
def State.FreshLoop (s : State) : Prop := s.cfg.pollLimit ≠ none → s.n = 0

/-- The busy reads `bs` stay below the bound, and the read `r` after them ends the poll loop (R141, R143, R145). -/
structure EndsLoop (c : Cfg) (bs : List Word) (r : Word) : Prop where
  busy : ∀ b ∈ bs, b.getLsbD c.pollBit.val = true
  done : r.getLsbD c.pollBit.val = false
  below : ∀ m ∈ c.pollLimit, bs.length < m

section
variable {s : State} (ho : s.ownStep) (hc : s.cfg.wellFormed = true)
include ho hc

/-- The clearing loop (R152). -/
theorem leads_clear (hp : s.ph = .clr) (hk : s.k = 0) :
    ∃ t, Leads (s.cmdR.nClr s.cfg) [] s t ∧ t.ph = .fill0 := by
  obtain ⟨t, hrun, hpt, -, -, -, -, hframe⟩ := clearLoopZeroesBuffer s ho hc hp hk
  exact ⟨t, ⟨hrun, (congrArg s.putBack hframe :), (congrArg State.answers hframe :).symm⟩, hpt⟩

theorem leads_enc (hp : s.ph = .enc) : ∃ t, Leads 1 [] s t ∧ t.ph = .poll1 ∧ t.FreshLoop :=
  ⟨_, (OwnStep.enc hp).leads ho hc rfl rfl, rfl, fun hl => (State.freshCounts_bounded (s := s) hl).1⟩

theorem leads_arm (hp : s.ph = .arm) : ∃ t, Leads 1 [] s t ∧ t.ph = .poll2 ∧ t.FreshLoop :=
  ⟨_, (OwnStep.arm hp).leads ho hc rfl rfl, rfl, fun hl => (State.freshCounts_bounded (s := s) hl).1⟩

theorem leads_errclr (hp : s.ph = .errclr) : ∃ t, Leads 2 [] s t ∧ t.ph = .poll1 ∧ t.FreshLoop := by
  have h1 := (OwnStep.errclr hp).leads ho hc rfl (as := []) rfl
  obtain ⟨t, h2, ht⟩ := leads_enc (h1.ownStep ho) (h1.wellFormed hc) rfl
  exact ⟨t, h1.trans h2, ht⟩

theorem leads_fill1 (hp : s.ph = .fill1) : ∃ t, Leads 3 [] s t ∧ t.ph = .poll1 ∧ t.FreshLoop := by
  have h1 := (OwnStep.fill1 hp).leads ho hc rfl (as := []) rfl
  obtain ⟨t, h2, ht⟩ := leads_errclr (h1.ownStep ho) (h1.wellFormed hc) rfl
  exact ⟨t, h1.trans h2, ht⟩

/-- From FILL0 to the entry of POLL1, by the phases of the command (R153 to R156). -/
theorem leads_fill0 (hp : s.ph = .fill0) :
    ∃ t, Leads s.cmdR.fillSteps [] s t ∧ t.ph = .poll1 ∧ t.FreshLoop := by
  have h1 := (OwnStep.fill0 hp).leads ho hc rfl (as := []) rfl
  cases hm : s.cmdR with
  | reset | ping =>
    obtain ⟨t, h2, ht⟩ := leads_enc (h1.ownStep ho) (h1.wellFormed hc) (congrArg afterFill0 hm)
    exact ⟨t, h1.trans h2, ht⟩
  | read =>
    obtain ⟨t, h2, ht⟩ := leads_errclr (h1.ownStep ho) (h1.wellFormed hc) (congrArg afterFill0 hm)
    exact ⟨t, h1.trans h2, ht⟩
  | write =>
    obtain ⟨t, h2, ht⟩ := leads_fill1 (h1.ownStep ho) (h1.wellFormed hc) (congrArg afterFill0 hm)
    exact ⟨t, h1.trans h2, ht⟩

/-- The busy reads of a poll loop, up to the read that ends it (R141, R143). -/
theorem leads_busy {bs more : List Word} {r : Word} (hp : s.ph = .poll1 ∨ s.ph = .poll2) (hn : s.FreshLoop)
    (ha : s.answers = bs ++ r :: more) (hb : EndsLoop s.cfg bs r) :
    ∃ t, Leads bs.length bs s t ∧ t.ph = s.ph ∧ ¬ t.seesBusy := by
  have hroom : ∀ m ∈ s.cfg.pollLimit, s.n + bs.length < m := fun m hm => by
    rw [hn (by rw [hm]; nofun), Nat.zero_add]
    exact hb.below m hm
  obtain ⟨t, hrun, hst, hat, -⟩ := run_busy bs ho hc hp ha hb.busy hroom
  refine ⟨t, ⟨hrun, (congrArg s.putBack hst :), by rw [ha, hat]⟩, hst.ph, ?_⟩
  rw [State.seesBusy_iff hat, hst.cfg, hb.done]
  decide

/-- POLL1 and ARM (R141, R142). -/
theorem leads_poll1 {bs more : List Word} {r : Word} (hp : s.ph = .poll1) (hn : s.FreshLoop)
    (ha : s.answers = bs ++ r :: more) (hb : EndsLoop s.cfg bs r) :
    ∃ t, Leads (bs.length + 1 + 1) (bs ++ [r]) s t ∧ t.ph = .poll2 ∧ t.FreshLoop := by
  obtain ⟨t, h1, hpt, hbusy⟩ := leads_busy ho hc (.inl hp) hn ha hb
  have hat : t.answers = r :: more := h1.answers_left ha
  have h2 := (OwnStep.poll1Done (hpt.trans hp) hbusy).leads (h1.ownStep ho) (h1.wellFormed hc) rfl (as := [r])
    (by simp [hat])
  have h12 := h1.trans h2
  obtain ⟨u, h3, hu⟩ := leads_arm (h12.ownStep ho) (h12.wellFormed hc) rfl
  have h := h12.trans h3
  rw [List.append_nil] at h
  exact ⟨u, h, hu⟩

end

/-- The block is about to take the first own step of the command `c` (R170, R143). -/
structure Begun (c : Command) (s : State) : Prop where
  ownStep : s.ownStep
  wellFormed : s.cfg.wellFormed = true
  ph : s.ph = .clr
  k : s.k = 0
  cmdR : s.cmdR = c

section
variable {c : Command} {s : State} {b1 b2 more : List Word} {c1 c2 : Word} (h : Begun c s)
  (ha : s.answers = b1 ++ c1 :: (b2 ++ c2 :: more)) (h1 : EndsLoop s.cfg b1 c1) (h2 : EndsLoop s.cfg b2 c2)
include h ha h1 h2

/-- A whole command, from the first step of CLR up to the read that ends POLL2 (R151, R242). -/
theorem leads_poll2_done :
    ∃ t, Leads (c.nClr s.cfg + c.fillSteps + (b1.length + 1 + 1) + b2.length) (b1 ++ [c1] ++ b2) s t ∧
      t.ph = .poll2 ∧ ¬ t.seesBusy ∧ t.answers = c2 :: more := by
  obtain ⟨ho, hc, hp, hk, rfl⟩ := h
  obtain ⟨t, hclr, hp⟩ := leads_clear ho hc hp hk
  obtain ⟨u, hfill, hp, hn⟩ := leads_fill0 (hclr.ownStep ho) (hclr.wellFormed hc) hp
  rw [hclr.cmdR] at hfill
  have hu := hclr.trans hfill
  obtain ⟨v, hpoll, hp, hn⟩ := leads_poll1 (hu.ownStep ho) (hu.wellFormed hc) hp hn (hu.answers_left ha)
    (hu.cfg ▸ h1)
  have hv := hu.trans hpoll
  have hav : v.answers = b2 ++ c2 :: more := hv.answers_left (by simp [ha])
  obtain ⟨x, hbusy, hpx, hdone⟩ := leads_busy (hv.ownStep ho) (hv.wellFormed hc) (.inr hp) hn hav (hv.cfg ▸ h2)
  exact ⟨x, hv.trans hbusy, hpx.trans hp, hdone, hbusy.answers_left hav⟩

/-- A command other than JB_WRITE goes on from POLL2 to RESP (R143). -/
theorem leads_resp (hm : c ≠ .write) :
    ∃ t, Leads (c.nClr s.cfg + c.fillSteps + (b1.length + 1 + 1) + b2.length + 1) (b1 ++ [c1] ++ b2 ++ [c2]) s t ∧
      t.ph = .resp ∧ t.answers = more := by
  obtain ⟨t, hst, hpt, hdone, hat⟩ := leads_poll2_done h ha h1 h2
  have hmt : t.cmdR ≠ .write := by rwa [hst.cmdR, h.cmdR]
  have hlast := (OwnStep.poll2Done hpt hdone hmt).leads (hst.ownStep h.ownStep) (hst.wellFormed h.wellFormed) rfl
    (as := [c2]) (by simp [hat])
  exact ⟨_, hst.trans hlast, rfl, by simp [hat]⟩

end

/-! ### A whole TICK -/

/-- The acceptance of a TICK begins the identify command of the connection state (R170). -/
theorem step_accepts_tick {s : State} {w : HostReqWord} {rest : List HostReqWord} (ho : s.ownStep)
    (hc : s.cfg.wellFormed = true) (hp : s.ph = .idle) (hq : s.reqs = w :: rest) (hw : w.getLsbD 32 = false) :
    ∃ t, step s = .next t ∧ Begun (tickCommand s.conn) t ∧ t.cfg = s.cfg ∧ t.conn = s.conn ∧ t.reqs = rest ∧
      t.answers = s.answers :=
  ⟨_, step_of_ownStep ho hc (.tick w rest hp hq hw), ⟨ho, hc, rfl, rfl, rfl⟩, rfl, rfl, rfl, rfl⟩

/-- The RESP step of a tick moves `conn` and chooses the event by the transition table (R171, R172, R174). -/
theorem exists_ownStep_of_tick_resp {s : State} (hp : s.ph = .resp) (hm : s.cmdR = tickCommand s.conn) :
    ∃ t, OwnStep s t ∧ t.ph = .idle ∧ t.rwR = s.nextAnswer ∧ t.reqs = s.reqs ∧ t.answers = s.answers.tail ∧
      t.cmdR = s.cmdR ∧
      t.conn = (if s.nextAnswer.extractLsb' 16 16 = 0x0004#16 then .connected else .disconnected) ∧
      t.rsp = some ⟨.ok, if t.conn = s.conn then .noEvent
        else if t.conn = .connected then .attached else .detached, 0⟩ := by
  simp only [← present_iff]
  cases hn : s.conn with
  | disconnected =>
    rw [hn] at hm
    refine ⟨_, .respReset hp hm, rfl, rfl, rfl, rfl, rfl, ?_⟩
    cases present s.nextAnswer <;> simp [hn]
  | connected =>
    rw [hn] at hm
    refine ⟨_, .respPing hp hm, rfl, rfl, rfl, rfl, rfl, ?_⟩
    cases present s.nextAnswer <;> simp [hn]

theorem tickCommand_lengths (cfg : Cfg) (c : Conn) :
    (tickCommand c).nClr cfg = cfg.clrIdWords ∧ (tickCommand c).fillSteps = 2 := by
  cases c <;> exact ⟨rfl, rfl⟩

/-- Settles O39: the acceptance, the identify command up to RESP, and the RESP step. -/
theorem tickRunsOneIdentifyCommand : Obligations.TickRunsOneIdentifyCommand := by
  intro s w rest b1 b2 more c1 c2 rw ho hc hp hq hw ha hbusy hdone hlim
  have h1 : EndsLoop s.cfg b1 c1 :=
    ⟨fun b hb => hbusy b (by simp [hb]), hdone c1 (by simp), fun m hm => (hlim m hm).1⟩
  have h2 : EndsLoop s.cfg b2 c2 :=
    ⟨fun b hb => hbusy b (by simp [hb]), hdone c2 (by simp), fun m hm => (hlim m hm).2⟩
  obtain ⟨t, haccept, hbegun, hcfg, hconn, hreqs, hat⟩ := step_accepts_tick ho hc hp hq hw
  obtain ⟨u, hlead, hpu, hau⟩ :=
    leads_resp hbegun (hat.trans ha) (hcfg ▸ h1) (hcfg ▸ h2) (tickCommand_ne_write _)
  have hmu : u.cmdR = tickCommand u.conn := by rw [hlead.cmdR, hlead.conn, hbegun.cmdR, hconn]
  obtain ⟨v, hrow, hpv, hrw, hreqv, hav, hmv, hconnv, hrsp⟩ := exists_ownStep_of_tick_resp hpu hmu
  have hend := step_of_ownStep (hlead.ownStep hbegun.ownStep) (hlead.wellFormed hbegun.wellFormed) hrow
  obtain ⟨hclr, hfill⟩ := tickCommand_lengths t.cfg s.conn
  have hlen : s.cfg.clrIdWords + 7 + b1.length + b2.length = (tickCommand s.conn).nClr t.cfg +
      (tickCommand s.conn).fillSteps + (b1.length + 1 + 1) + b2.length + 1 + 1 + 1 := by
    rw [hclr, hfill, hcfg]
    omega
  rw [State.nextAnswer_of_cons hau] at hrw hconnv
  rw [hlead.conn, hconn] at hrsp
  refine ⟨v, ?_, hpv, hrw, hreqv.trans (hlead.reqs.trans hreqs), by rw [hav, hau]; rfl, ?_, hconnv, hrsp⟩
  · rw [hlen]
    exact (run_succ _ haccept).trans (run_concat hlead.run hend)
  · rw [hmv, hlead.cmdR, hbegun.cmdR, tickCommand_eq_ite]

/-! ### A whole TRANSACT -/

/-- The acceptance of a TRANSACT while Connected latches its value and begins JB_WRITE (R170). -/
theorem step_accepts_transact {s : State} {w : HostReqWord} {rest : List HostReqWord} (ho : s.ownStep)
    (hc : s.cfg.wellFormed = true) (hp : s.ph = .idle) (hq : s.reqs = w :: rest) (hw : w.getLsbD 32 = true)
    (hn : s.conn = .connected) :
    ∃ t, step s = .next t ∧ Begun .write t ∧ t.cfg = s.cfg ∧ t.conn = s.conn ∧ t.reqs = rest ∧
      t.answers = s.answers ∧ t.valR = w.extractLsb' 0 32 :=
  ⟨_, step_of_ownStep ho hc (.transact w rest hp hq hw hn), ⟨ho, hc, rfl, rfl, rfl⟩, rfl, rfl, rfl, rfl,
    setWidth_eq_extractLsb'_hostReq w⟩

section
variable {s : State} {b1 b2 more : List Word} {c1 c2 : Word} (h1 : EndsLoop s.cfg b1 c1) (h2 : EndsLoop s.cfg b2 c2)
include h1 h2

/-- The JB_WRITE of a TRANSACT, whose last POLL2 read begins the JB_READ (R143, R242). -/
theorem run_write (h : Begun .write s) (ha : s.answers = b1 ++ c1 :: (b2 ++ c2 :: more)) :
    ∃ t, core.run (39 + b1.length + b2.length) s = .next t ∧ Begun .read t ∧ t.cfg = s.cfg ∧ t.conn = s.conn ∧
      t.reqs = s.reqs ∧ t.answers = more ∧ t.valR = s.valR := by
  obtain ⟨t, hst, hpt, hdone, hat⟩ := leads_poll2_done h ha h1 h2
  have ho := hst.ownStep h.ownStep
  have hc := hst.wellFormed h.wellFormed
  have hturn := step_of_ownStep ho hc (.poll2Write hpt hdone (hst.cmdR.trans h.cmdR))
  have hlen : 39 + b1.length + b2.length = 32 + 4 + (b1.length + 1 + 1) + b2.length + 1 := by omega
  rw [hlen]
  exact ⟨_, run_concat hst.run hturn, ⟨ho, hc, rfl, rfl, rfl⟩, hst.cfg, hst.conn, hst.reqs, congrArg List.tail hat,
    hst.valR⟩

/-- The JB_READ of a TRANSACT, whose RESP step ends it with the swapped word (R175, R242). -/
theorem run_read {rw : Word} (h : Begun .read s) (ha : s.answers = b1 ++ c1 :: (b2 ++ c2 :: rw :: more)) :
    ∃ t, core.run (39 + b1.length + b2.length) s = .next t ∧ t.ph = .idle ∧ t.conn = s.conn ∧ t.reqs = s.reqs ∧
      t.answers = more ∧ t.valR = s.valR ∧ t.rwR = rw ∧ t.rsp = some ⟨.ok, .noEvent, swap32 rw⟩ := by
  obtain ⟨t, hst, hpt, hat⟩ := leads_resp h ha h1 h2 nofun
  have hend := step_of_ownStep (hst.ownStep h.ownStep) (hst.wellFormed h.wellFormed)
    (.respRead hpt (hst.cmdR.trans h.cmdR))
  rw [State.nextAnswer_of_cons hat] at hend
  have hlen : 39 + b1.length + b2.length = 32 + 3 + (b1.length + 1 + 1) + b2.length + 1 + 1 := by omega
  rw [hlen]
  exact ⟨_, run_concat hst.run hend, rfl, hst.conn, hst.reqs, congrArg List.tail hat, hst.valR, rfl, rfl⟩

end

/-- Settles O40: the acceptance, the JB_WRITE, and the JB_READ. -/
theorem transactRunsWriteThenRead : Obligations.TransactRunsWriteThenRead := by
  intro s w rest b1 b2 b3 b4 more c1 c2 c3 c4 rw ho hc hp hq hw hn ha hbusy hdone hlim
  have h1 : EndsLoop s.cfg b1 c1 :=
    ⟨fun b hb => hbusy b (by simp [hb]), hdone c1 (by simp), fun m hm => (hlim m hm).1⟩
  have h2 : EndsLoop s.cfg b2 c2 :=
    ⟨fun b hb => hbusy b (by simp [hb]), hdone c2 (by simp), fun m hm => (hlim m hm).2.1⟩
  have h3 : EndsLoop s.cfg b3 c3 :=
    ⟨fun b hb => hbusy b (by simp [hb]), hdone c3 (by simp), fun m hm => (hlim m hm).2.2.1⟩
  have h4 : EndsLoop s.cfg b4 c4 :=
    ⟨fun b hb => hbusy b (by simp [hb]), hdone c4 (by simp), fun m hm => (hlim m hm).2.2.2⟩
  obtain ⟨t, haccept, hbegun, hcfgt, hnt, hqt, hat, hvt⟩ := step_accepts_transact ho hc hp hq hw hn
  obtain ⟨u, hwrite, hbegun, hcfgu, hnu, hqu, hau, hvu⟩ :=
    run_write (hcfgt ▸ h1) (hcfgt ▸ h2) hbegun (hat.trans ha)
  have hcfg := hcfgu.trans hcfgt
  obtain ⟨v, hread, hpv, hnv, hqv, hav, hvv, hrw, hrsp⟩ := run_read (hcfg ▸ h3) (hcfg ▸ h4) hbegun hau
  have hfirst : core.run 1 s = .next t := run_succ 0 haccept
  have hboth := (run_add 1 _ hfirst).trans hwrite
  exact ⟨v, (run_add _ _ hboth).trans hread, hpv, by rw [hnv, hnu, hnt, hn], by rw [hqv, hqu, hqt], hav,
    by rw [hvv, hvu, hvt], hrw, hrsp⟩

end Sys2Proof.Machine
end

section
/-! SUPPORT. Error responses (R192, R193, R199): a step that ends in one is `raise`, on a state that has the registers
of the block and both windows as they were; and the fault outcome that it makes of a run (R176). -/

namespace Sys2Proof.Machine

/-! ### What an error response is -/

/-- The same block but for the phase, the read counts, the ports and the inputs. -/
def SameRegisters (s t : State) : Prop :=
  { t with
    ph := s.ph, n := s.n, loopReads := s.loopReads, rp := s.rp, rsp := s.rsp, reqs := s.reqs, answers := s.answers,
    draws := s.draws, presented := s.presented } = s

theorem SameRegisters.trans {s t u : State} (hst : SameRegisters s t) (htu : SameRegisters t u) :
    SameRegisters s u := by
  unfold SameRegisters at *
  rw [← htu] at hst
  exact hst

/-- `t` is the end of a host operation with an error response (R199), and the registers of `s` are as they were. -/
def Raised (err : RspErr) (s t : State) : Prop := ∃ u, SameRegisters s u ∧ t = u.raise err

theorem Raised.of_same {err : RspErr} {s t u : State} (h : Raised err u t) (hsame : SameRegisters s u) :
    Raised err s t := by
  obtain ⟨v, hv, rfl⟩ := h
  exact ⟨v, hsame.trans hv, rfl⟩

theorem State.raise_of_idle {s : State} (h : s.ph = .idle) (err : RspErr) :
    s.raise err = { s with rsp := some ⟨err, .noEvent, 0⟩, faults := s.faults ++ err.faults } := by
  simp [State.raise, State.respond, h]

/-- An error response is one fault on the record (R176). -/
theorem RspErr.exists_faults {err : RspErr} (h : err ≠ .ok) : ∃ f, err.faults = [f] := by
  cases err with
  | ok => exact absurd rfl h
  | notConnected => exact ⟨_, rfl⟩
  | busTimeout => exact ⟨_, rfl⟩

theorem State.errored_raise_iff {s : State} {err : RspErr} : (s.raise err).errored ↔ err ≠ .ok := by
  simp [State.errored, State.raise]

theorem State.not_errored_of_rsp {s : State} (h : s.rsp = none) : ¬ s.errored := by
  simp [State.errored, h]

/-! ### The operations -/

/-- Of the rows of an own step two end in an error response: a TRANSACT while Disconnected (R192), and the last poll
read allowed (R193). -/
theorem OwnStep.raised {s t : State} (h : OwnStep s t) (he : t.errored) : ∃ err, Raised err s t := by
  obtain ⟨r, hr, hne⟩ := he
  cases h <;> cases hr
  case notConnected w rest hp hq hw hn =>
    refine ⟨.notConnected, { s with reqs := rest, rp := none }, rfl, ?_⟩
    rw [State.raise_of_idle (by exact hp)]
    rfl
  case timeout hp hb hl =>
    exact ⟨.busTimeout, { s with
      answers := s.answers.tail, draws := s.draws + 1, rp := some (.readControl s.cfg.pollIndex s.nextAnswer),
      n := s.n + 1, loopReads := s.countedReads }, rfl, rfl⟩
  all_goals exact absurd rfl hne

/-- A state as the fetch hands it to an operation: nothing stands on a port. -/
structure State.Ready (s : State) : Prop where
  own : s.ownStep
  cfg : s.cfg.wellFormed = true
  rp : s.rp = none
  rsp : s.rsp = none

theorem State.Ready.clearPorts {s : State} (h : s.Ready) : s.clearPorts = s := by
  obtain ⟨-, -, hrp, hrsp⟩ := h
  cases s
  cases hrp
  cases hrsp
  rfl

section
variable {s t : State} (hs : s.Ready)
include hs

/-- On such a state the step of a phase is an own step. -/
theorem State.Ready.ownStep_of_phaseStep (hp : s.ph ≠ .idle) (h : phaseStep s = .next t) : OwnStep s t := by
  refine (ownStep_of_step hs.own ?_).2
  rw [step_busy hs.own hs.cfg hp, hs.clearPorts]
  exact h

/-- A command in progress takes the step of its phase; one that begins is in CLR, which gives no response. -/
theorem State.Ready.command_raised {u : State} (hu : u = s ∧ s.ph ≠ .idle ∨ u.ph = .clr ∧ u.rsp = s.rsp)
    (h : phaseStep u = .next t) (he : t.errored) : ∃ err, Raised err s t := by
  obtain ⟨rfl, hp⟩ | ⟨hp, hrsp⟩ := hu
  · exact (hs.ownStep_of_phaseStep hp h).raised he
  · have hclr : clrStep u = t := by simpa [phaseStep, hp] using h
    have ht : t.rsp = u.rsp := by
      rw [← hclr, clrStep]
      split <;> rfl
    exact absurd he (State.not_errored_of_rsp (ht.trans (hrsp.trans hs.rsp)))

end

theorem State.enter_cases (s : State) (c : Command) :
    s.enter c = s ∧ s.ph ≠ .idle ∨ (s.enter c).ph = .clr ∧ (s.enter c).rsp = s.rsp := by
  unfold State.enter
  split
  · rename_i h
    exact .inl ⟨rfl, h.1⟩
  · exact .inr ⟨rfl, rfl⟩

theorem State.enterWrite_cases (s : State) (v : Word) :
    s.enterWrite v = s ∧ s.ph ≠ .idle ∨ (s.enterWrite v).ph = .clr ∧ (s.enterWrite v).rsp = s.rsp := by
  unfold State.enterWrite
  split
  · rename_i h
    exact .inl ⟨rfl, h.1⟩
  · exact .inr ⟨rfl, rfl⟩

theorem execTick_rsp {v : Word} {s t : State} (h : execTick v s = .next t) : t.rsp = s.rsp := by
  unfold execTick at h
  split at h <;> cases h <;> rfl

/-- R192: TRANSACT in IDLE while Disconnected. -/
theorem exec_transact_of_disconnected {s : State} (hp : s.ph = .idle) (hn : s.conn = .disconnected) (v : Word) :
    exec (.transact v) s = .next (s.raise .notConnected) := by
  simp only [exec, execTransact, hp, hn]

theorem State.Ready.transact_raised {s t : State} (hs : s.Ready) {v : Word} (h : exec (.transact v) s = .next t)
    (he : t.errored) : ∃ err, Raised err s t := by
  by_cases hp : s.ph = .idle
  · cases hn : s.conn with
    | disconnected =>
      rw [exec_transact_of_disconnected hp hn] at h
      cases h
      exact ⟨_, s, rfl, rfl⟩
    | connected =>
      rw [exec_transact_of_idle hp hn] at h
      cases h
      exact absurd he (State.not_errored_of_rsp hs.rsp)
  · rw [exec_transact_of_busy hp] at h
    cases h
    exact absurd he (State.not_errored_of_rsp hs.rsp)

/-- EXECUTE in one of its phases is the step of the phase (R140). -/
theorem exec_execute_eq_phaseStep {s : State} (hp : s.ph = .poll1 ∨ s.ph = .arm ∨ s.ph = .poll2) :
    exec .execute s = phaseStep s := by
  obtain hp | hp | hp := hp <;> simp only [exec, execExecute, phaseStep, hp]

/-- EXECUTE is the step of its phase, outside its phases that of POLL1 at its entry. -/
theorem State.Ready.execute_raised {s t : State} (hs : s.Ready) (h : exec .execute s = .next t) (he : t.errored) :
    ∃ err, Raised err s t := by
  by_cases hp : s.ph = .poll1 ∨ s.ph = .arm ∨ s.ph = .poll2
  · rw [exec_execute_eq_phaseStep hp] at h
    exact hs.command_raised (.inl ⟨rfl, by obtain hp | hp | hp := hp <;> simp [hp]⟩) h he
  · simp only [not_or] at hp
    obtain ⟨h1, ha, h2⟩ := hp
    rw [exec_execute_outside h1 ha h2, exec_execute_eq_phaseStep (.inl rfl)] at h
    have hentry : ({ s with ph := .poll1, n := s.freshCount, loopReads := s.freshReads } : State).Ready :=
      ⟨hs.own, hs.cfg, hs.rp, hs.rsp⟩
    obtain ⟨err, hraised⟩ := hentry.command_raised (.inl ⟨rfl, nofun⟩) h he
    exact ⟨err, hraised.of_same rfl⟩

theorem writeControl_rsp {index : BitVec 5} {value : Word} {s t : State}
    (h : writeControl index value s = .next t) : t.rsp = s.rsp := by
  unfold writeControl at h
  split at h <;> cases h
  rfl

theorem execReadControl_rsp {index : BitVec 5} {wdata : Word} {s t : State}
    (h : execReadControl index wdata s = .next t) : t.rsp = s.rsp := by
  obtain ⟨⟨r, u⟩, hu, h⟩ := andThen_eq_next h
  unfold readControl at hu
  split at hu <;> cases hu
  cases h
  rfl

/-- An operation that ends in an error response raises it. -/
theorem State.Ready.exec_raised {i : Instr} {s t : State} (hs : s.Ready) (h : exec i s = .next t) (he : t.errored) :
    ∃ err, Raised err s t := by
  have silent (ht : t.rsp = s.rsp) : ∃ err, Raised err s t := absurd he (State.not_errored_of_rsp (ht.trans hs.rsp))
  cases i with
  | tick v => exact silent (execTick_rsp h)
  | transact v => exact hs.transact_raised h he
  | jbReset => exact hs.command_raised (s.enter_cases _) h he
  | jbPing => exact hs.command_raised (s.enter_cases _) h he
  | jbRead => exact hs.command_raised (s.enter_cases _) h he
  | jbWrite v => exact hs.command_raised (s.enterWrite_cases v) h he
  | encode a b c => rw [exec_encode hs.cfg] at h; cases h; exact silent rfl
  | execute => exact hs.execute_raised h he
  | swap32 x => cases h; exact silent rfl
  | swap16h x => cases h; exact silent rfl
  | writeControl index value => exact silent (writeControl_rsp h)
  | readControl index wdata => exact silent (execReadControl_rsp (wdata := wdata) h)
  | writeBuffer index value => cases h; exact silent rfl
  | readBuffer index wdata => cases h; exact silent rfl

/-! ### The step -/

theorem fetch_ready {s u : State} {i : Instr} (hr : s.rst = false) (h : fetch s = .ok (some (i, u))) :
    u.Ready ∧ SameRegisters s u := by
  have hc : s.cfg.wellFormed = true := by
    by_contra hc
    simp [fetch, hc] at h
  simp only [fetch, hc, if_true] at h
  cases hp : s.presented with
  | some p =>
    cases hd : decode s.cfg p <;> simp only [hp, hd] at h <;> cases h
    exact ⟨⟨⟨hr, rfl⟩, hc, rfl, rfl⟩, rfl⟩
  | none =>
    cases hph : s.ph with
    | idle =>
      cases hq : s.reqs <;> simp only [hp, hph, hq] at h <;> cases h
      exact ⟨⟨⟨hr, hp⟩, hc, rfl, rfl⟩, rfl⟩
    | _ =>
      simp only [hp, hph] at h
      cases h
      exact ⟨⟨⟨hr, hp⟩, hc, rfl, rfl⟩, rfl⟩

/-- A step that ends in an error response, in any state, raises it and does nothing else to the registers of the block
and the windows (R199). -/
theorem step_raised {s t : State} (h : step s = .next t) (he : t.errored) :
    ∃ err, err ≠ .ok ∧ Raised err s t := by
  have hraised : ∃ err, Raised err s t := by
    cases hr : s.rst with
    | true =>
      rw [step_of_rst hr] at h
      cases h
      exact absurd he (State.not_errored_of_rsp rfl)
    | false =>
      simp only [step, hr, Bool.false_eq_true, if_false] at h
      split at h
      · cases h
      · cases h
        exact absurd he (State.not_errored_of_rsp rfl)
      · rename_i i u hf
        obtain ⟨hready, hsame⟩ := fetch_ready hr hf
        obtain ⟨err, hraised⟩ := hready.exec_raised h he
        exact ⟨err, hraised.of_same hsame⟩
  obtain ⟨err, u, hsame, rfl⟩ := hraised
  exact ⟨err, State.errored_raise_iff.1 he, u, hsame, rfl⟩

/-- Settles O50: the step is a `raise` on the same registers. -/
theorem errorResponseChangesNothingElse : Obligations.ErrorResponseChangesNothingElse := by
  intro s t h he
  obtain ⟨err, -, u, hsame, rfl⟩ := step_raised h he
  exact ⟨rfl, (congrArg State.conn hsame :), .of_eq (congrArg State.ctrl hsame :),
    .of_eq (congrArg State.buf hsame :), (congrArg State.valR hsame :), (congrArg State.opR hsame :),
    (congrArg State.cmdR hsame :), (congrArg State.k hsame :), (congrArg State.cwR hsame :),
    (congrArg State.rwR hsame :), _, rfl, rfl, rfl⟩

/-- Every step that ends in an error response puts one fault on the record (R176). -/
theorem exists_faults_of_errored {s t : State} (h : step s = .next t) (he : t.errored) :
    ∃ f, t.faults = s.faults ++ [f] := by
  obtain ⟨err, hne, u, hsame, rfl⟩ := step_raised h he
  obtain ⟨f, hf⟩ := RspErr.exists_faults hne
  have hu : u.faults = s.faults := (congrArg State.faults hsame :)
  exact ⟨f, by rw [State.raise_faults, hf, hu]⟩

/-! ### The outcome of a run -/

theorem State.KeepsFaults.trans {s t u : State} (hst : s.KeepsFaults t) (htu : t.KeepsFaults u) : s.KeepsFaults u := by
  obtain ⟨a, ha⟩ := hst
  obtain ⟨b, hb⟩ := htu
  exact ⟨a ++ b, by rw [hb, ha, List.append_assoc]⟩

/-- A run of one step more, taken apart. -/
theorem exists_step_of_run_succ {n : Nat} {s t : State} (h : core.run (n + 1) s = .next t) :
    ∃ u, step s = .next u ∧ core.run n u = .next t := by
  simp only [Host.Core.run] at h
  split at h
  · rename_i u hu
    exact ⟨u, hu, h⟩
  · cases h
  · cases h

/-- No run takes a fault outcome off the record. -/
theorem run_keepsFaults {n : Nat} {s t : State} (h : core.run n s = .next t) : s.KeepsFaults t := by
  induction n generalizing s with
  | zero => cases h; exact .of_eq rfl
  | succ n ih =>
    obtain ⟨u, hstep, hrun⟩ := exists_step_of_run_succ h
    exact (step_keepsFaults hstep).trans (ih hrun)

/-- From a state of the machine's own runs every run comes to a state. -/
theorem State.Inv.exists_run {s : State} (h : s.Inv) (n : Nat) : ∃ t, core.run n s = .next t := by
  induction n generalizing s with
  | zero => exact ⟨s, rfl⟩
  | succ n ih =>
    obtain ⟨u, hu⟩ := invariantStepNeverStops s h
    obtain ⟨t, ht⟩ := ih (stepKeepsInvariant s u h hu)
    exact ⟨t, (run_succ n hu).trans ht⟩

/-- A run has a next state as its outcome when it comes to that state with nothing on its record. -/
theorem run_of_runOutcome {n : Nat} {s t : State} (h : runOutcome n s = .next t) :
    core.run n s = .next t ∧ t.faults = [] := by
  unfold runOutcome at h
  split at h
  · rename_i u hu
    unfold State.outcome at h
    split at h
    · cases h
      exact ⟨hu, ‹_›⟩
    · cases h
  · cases h
  · cases h

/-- A run that comes to a state with something on its record has the first of it as its outcome. -/
theorem runOutcome_of_faults {n : Nat} {s t : State} {f : Fault} {more : List Fault} (h : core.run n s = .next t)
    (hf : t.faults = f :: more) : runOutcome n s = .fault f := by
  simp only [runOutcome, h, State.outcome, hf]

/-- An own step of an idle block that accepts a TRANSACT while Disconnected puts NotConnected on the record. -/
theorem step_of_transact_disconnected {s : State} {w : HostReqWord} {rest : List HostReqWord} (ho : s.ownStep)
    (hc : s.cfg.wellFormed = true) (hp : s.ph = .idle) (hq : s.reqs = w :: rest) (hw : w.getLsbD 32 = true)
    (hn : s.conn = .disconnected) : ∃ t, step s = .next t ∧ t.faults = s.faults ++ [.notConnected] :=
  ⟨_, step_of_ownStep ho hc (.notConnected w rest hp hq hw hn), rfl⟩

/-- R176: from a state of the machine's own runs with nothing on record, a run that begins so has that outcome. -/
theorem runOutcome_of_transact_disconnected {s : State} {w : HostReqWord} {rest : List HostReqWord} (hi : s.Inv)
    (hr : s.rst = false) (hp : s.ph = .idle) (hn : s.conn = .disconnected) (hq : s.reqs = w :: rest)
    (hw : w.getLsbD 32 = true) (hf : s.faults = []) (n : Nat) : runOutcome (n + 1) s = .fault .notConnected := by
  obtain ⟨t, hstep, hft⟩ := step_of_transact_disconnected ⟨hr, hi.notPresented⟩ hi.cfg hp hq hw hn
  obtain ⟨u, hrun⟩ := (stepKeepsInvariant s t hi hstep).exists_run n
  obtain ⟨more, hfu⟩ := run_keepsFaults hrun
  exact runOutcome_of_faults (more := more) ((run_succ n hstep).trans hrun) (by rw [hfu, hft, hf]; rfl)

/-- A run whose outcome is a next state has accepted each of its TRANSACTs while Connected: the fault of another would
have stayed on the record. -/
theorem connected_of_runOutcome {s t u : State} {j k : Nat} {w : HostReqWord} {rest : List HostReqWord}
    (hout : runOutcome k s = .next t) (hj : j < k) (hrun : core.run j s = .next u) (ho : u.ownStep)
    (hp : u.ph = .idle) (hq : u.reqs = w :: rest) (hw : w.getLsbD 32 = true) : u.conn = .connected := by
  cases hn : u.conn with
  | connected => rfl
  | disconnected =>
    obtain ⟨hall, hnone⟩ := run_of_runOutcome hout
    obtain ⟨n, rfl⟩ := Nat.exists_eq_add_of_lt hj
    rw [Nat.add_assoc, run_add j _ hrun] at hall
    obtain ⟨v, hstep, hrest⟩ := exists_step_of_run_succ hall
    obtain ⟨v', hstep', hfault⟩ :=
      step_of_transact_disconnected ho (wellFormed_of_step ho.1 hstep) hp hq hw hn
    cases hstep.symm.trans hstep'
    obtain ⟨more, hmore⟩ := run_keepsFaults hrest
    simp [hmore, hfault] at hnone

/-- Settles O35: the `raise` in IDLE, and the record, which every run keeps and every error response adds to. -/
theorem transactWhileDisconnectedRaises : Obligations.TransactWhileDisconnectedRaises := by
  refine ⟨fun s v hp hn => ?_, fun s w rest => runOutcome_of_transact_disconnected,
    fun s t k hout j u w rest => connected_of_runOutcome hout, fun s t => exists_faults_of_errored⟩
  rw [exec_transact_of_disconnected hp hn, State.raise_of_idle hp]
  rfl

end Sys2Proof.Machine
end

section
/-! SUPPORT. Reset, the poll loops around the transfer, and the record of the windows (R220, R233, R234): what a reset
edge leaves, what a clear read opens, and the canonical form through every operation. -/

namespace Sys2Proof.Machine

/-! ### The reset edge -/

/-- Settles O43: the step is `State.applyReset`, which takes its values from `State.reset` and keeps CFG and both
windows. -/
theorem resetEdgeEntersResetState : Obligations.ResetEdgeEntersResetState :=
  fun s hr => ⟨s.applyReset, step_of_rst hr, s.applyReset_conn, s.applyReset_ph, rfl, s.applyReset_rsp,
    s.applyReset_rp, .of_eq s.applyReset_ctrl, .of_eq s.applyReset_buf, s.applyReset_cfg⟩

/-! ### The transfer -/

/-- Only CLR, FILL0 and FILL1 write the buffer (R234). -/
theorem OwnStep.buf_of_not_filling {s t : State} (h : OwnStep s t) (hclr : s.ph ≠ .clr) (h0 : s.ph ≠ .fill0)
    (h1 : s.ph ≠ .fill1) : t.buf = s.buf := by
  cases h
  case clearMore hp _ => exact absurd hp hclr
  case clearLast hp _ => exact absurd hp hclr
  case fill0 hp => exact absurd hp h0
  case fill1 hp => exact absurd hp h1
  all_goals rfl

/-- Settles O51: the phases that touch the buffer, by a write or by a read, are four others. -/
theorem noBufferAccessInFlight : Obligations.NoBufferAccessInFlight := by
  intro s t ho hs hp
  obtain ⟨-, hrow⟩ := ownStep_of_step ho hs
  obtain ⟨hclr, hfill0, hfill1, hresp⟩ : s.ph ≠ .clr ∧ s.ph ≠ .fill0 ∧ s.ph ≠ .fill1 ∧ s.ph ≠ .resp := by
    obtain hp | hp | hp := hp <;> simp [hp]
  refine ⟨.of_eq (hrow.buf_of_not_filling hclr hfill0 hfill1), fun i v => ?_⟩
  rw [hrow.rp_eq]
  constructor
  · intro ha
    obtain h | h | h := State.phaseAccess_writeBuffer ha
    · exact hclr h
    · exact hfill0 h
    · exact hfill1 h
  · intro ha
    exact hresp (State.phaseAccess_readBuffer ha).1

/-- The one row of R22 into ARM is the clear read of POLL1 (R141). -/
theorem PhaseEdge.of_arm {s : State} (h : PhaseEdge s .arm) : s.ph = .poll1 ∧ ¬ s.seesBusy := by
  cases h with
  | poll1Arm hp hb => exact ⟨hp, hb⟩

/-- The one row of R22 into RESP is the clear read of POLL2 (R143). -/
theorem PhaseEdge.of_resp {s : State} (h : PhaseEdge s .resp) : s.ph = .poll2 ∧ ¬ s.seesBusy := by
  cases h with
  | poll2Resp hp hb _ => exact ⟨hp, hb⟩

/-- A poll step that does not see the busy bit as 1 has made a read that shows it as 0 (R35). -/
theorem OwnStep.clearRead {s t : State} (h : OwnStep s t) (hp : s.ph = .poll1 ∨ s.ph = .poll2) (hb : ¬ s.seesBusy) :
    ∃ r, t.rp = some (.readControl s.cfg.pollIndex r) ∧ r.getLsbD s.cfg.pollBit.val = false := by
  refine ⟨s.nextAnswer, ?_, Bool.eq_false_of_not_eq_true hb⟩
  rw [h.rp_eq]
  obtain hp | hp := hp <;> simp only [State.phaseAccess, hp]

/-- Settles O52: ARM and RESP by the one edge that leads to each, the accesses by the phase that makes them. -/
theorem pollBracketsTransfer : Obligations.PollBracketsTransfer := by
  intro s t ho hs
  obtain ⟨-, hrow⟩ := ownStep_of_step ho hs
  have hedge : PhaseEdge s t.ph := phaseEdge_of_ownStep hrow
  refine ⟨fun ht => ?_, fun ht => ?_, fun i v ha => ?_, fun i r ha => ?_⟩
  · obtain ⟨hp, hb⟩ := PhaseEdge.of_arm (ht ▸ hedge)
    exact ⟨hp, hrow.clearRead (.inl hp) hb⟩
  · obtain ⟨hp, hb⟩ := PhaseEdge.of_resp (ht ▸ hedge)
    exact ⟨hp, hrow.clearRead (.inr hp) hb⟩
  · exact State.phaseAccess_writeControl (hrow.rp_eq ▸ ha)
  · exact (State.phaseAccess_readBuffer (hrow.rp_eq ▸ ha)).1

/-! ### The canonical form of the windows -/

/-- Both windows are in canonical form (assumption 5). -/
structure State.Canonical (s : State) : Prop where
  ctrl : Memory.wf s.ctrl = true
  buf : Memory.wf s.buf = true

/-- Every row of an own step stores at most one word. -/
theorem OwnStep.keepsCanonical {s t : State} (h : OwnStep s t) (hs : s.Canonical) : t.Canonical := by
  cases h
  case clearMore | clearLast | fill0 | fill1 => exact ⟨hs.ctrl, Memory.wf_storeWord _ _ _ _ hs.buf⟩
  case errclr | enc | arm => exact ⟨Memory.wf_storeWord _ _ _ _ hs.ctrl, hs.buf⟩
  all_goals exact ⟨hs.ctrl, hs.buf⟩

/-- `u` is `s` with a command or a transfer in progress, its step not yet taken. -/
structure Serves (s u : State) : Prop where
  ready : u.Ready
  busy : u.ph ≠ .idle
  ctrl : u.ctrl = s.ctrl
  buf : u.buf = s.buf

/-- The step of the phase is then an own step, so its rows say what it stores. -/
theorem Serves.keepsCanonical {s t u : State} (h : Serves s u) (hu : phaseStep u = .next t) (hs : s.Canonical) :
    t.Canonical :=
  (h.ready.ownStep_of_phaseStep h.busy hu).keepsCanonical ⟨h.ctrl ▸ hs.ctrl, h.buf ▸ hs.buf⟩

section
variable {s : State} (hr : s.Ready)
include hr

theorem State.Ready.serves_self (hp : s.ph ≠ .idle) : Serves s s := ⟨hr, hp, rfl, rfl⟩

theorem State.Ready.serves_enter (c : Command) : Serves s (s.enter c) := by
  unfold State.enter
  split
  · rename_i h
    exact hr.serves_self h.1
  · exact ⟨⟨hr.own, hr.cfg, hr.rp, hr.rsp⟩, nofun, rfl, rfl⟩

theorem State.Ready.serves_enterWrite (v : Word) : Serves s (s.enterWrite v) := by
  unfold State.enterWrite
  split
  · rename_i h
    exact hr.serves_self h.1
  · exact ⟨⟨hr.own, hr.cfg, hr.rp, hr.rsp⟩, nofun, rfl, rfl⟩

/-- EXECUTE is the step of a phase: its own, or POLL1 at its entry (R140). -/
theorem State.Ready.serves_execute : ∃ u, Serves s u ∧ exec .execute s = phaseStep u := by
  by_cases hp : s.ph = .poll1 ∨ s.ph = .arm ∨ s.ph = .poll2
  · exact ⟨s, hr.serves_self (by obtain hp | hp | hp := hp <;> simp [hp]), exec_execute_eq_phaseStep hp⟩
  · simp only [not_or] at hp
    obtain ⟨h1, ha, h2⟩ := hp
    refine ⟨_, ?_, (exec_execute_outside h1 ha h2).trans (exec_execute_eq_phaseStep (.inl rfl))⟩
    exact ⟨⟨hr.own, hr.cfg, hr.rp, hr.rsp⟩, nofun, rfl, rfl⟩

end

section
variable {s t : State} (hs : s.Canonical)
include hs

theorem State.Canonical.of_execTick {v : Word} (h : execTick v s = .next t) : t.Canonical := by
  unfold execTick at h
  split at h <;> cases h <;> exact ⟨hs.ctrl, hs.buf⟩

theorem State.Canonical.of_execTransact {v : Word} (h : execTransact v s = .next t) : t.Canonical := by
  unfold execTransact at h
  split at h
  case h_1 => split at h <;> cases h <;> exact ⟨hs.ctrl, hs.buf⟩
  all_goals cases h; exact ⟨hs.ctrl, hs.buf⟩

theorem State.Canonical.of_writeControl {index : BitVec 5} {value : Word} (h : writeControl index value s = .next t) :
    t.Canonical := by
  unfold writeControl at h
  split at h <;> cases h
  exact ⟨Memory.wf_storeWord _ _ _ _ hs.ctrl, hs.buf⟩

theorem State.Canonical.of_execReadControl {index : BitVec 5} {wdata : Word}
    (h : execReadControl index wdata s = .next t) : t.Canonical := by
  obtain ⟨⟨r, u⟩, hu, h⟩ := andThen_eq_next h
  unfold readControl at hu
  split at hu <;> cases hu
  cases h
  exact ⟨hs.ctrl, hs.buf⟩

/-- Every operation, on a state as the fetch hands it on, keeps the canonical form. -/
theorem State.Canonical.of_exec {i : Instr} (hr : s.Ready) (h : exec i s = .next t) : t.Canonical := by
  cases i with
  | tick v => exact hs.of_execTick h
  | transact v => exact hs.of_execTransact h
  | jbReset => exact (hr.serves_enter .reset).keepsCanonical h hs
  | jbPing => exact (hr.serves_enter .ping).keepsCanonical h hs
  | jbRead => exact (hr.serves_enter .read).keepsCanonical h hs
  | jbWrite v => exact (hr.serves_enterWrite v).keepsCanonical h hs
  | encode a b c =>
    rw [exec_encode hr.cfg] at h
    cases h
    exact ⟨Memory.wf_storeWord _ _ _ _ hs.ctrl, hs.buf⟩
  | execute =>
    obtain ⟨u, hu, he⟩ := hr.serves_execute
    exact hu.keepsCanonical (he ▸ h) hs
  | swap32 x => cases h; exact ⟨hs.ctrl, hs.buf⟩
  | swap16h x => cases h; exact ⟨hs.ctrl, hs.buf⟩
  | writeControl index value => exact hs.of_writeControl h
  | readControl index wdata => exact hs.of_execReadControl (wdata := wdata) h
  | writeBuffer index value => cases h; exact ⟨hs.ctrl, Memory.wf_storeWord _ _ _ _ hs.buf⟩
  | readBuffer index wdata => cases h; exact ⟨hs.ctrl, hs.buf⟩

end

/-- Settles O54: a reset edge and an idle step leave the windows alone, and the operation fetched keeps the form. -/
theorem stepKeepsWindowsCanonical : Obligations.StepKeepsWindowsCanonical := by
  intro s t h hctrl hbuf
  suffices ht : t.Canonical from ⟨ht.ctrl, ht.buf⟩
  cases hr : s.rst with
  | true =>
    rw [step_of_rst hr] at h
    cases h
    exact ⟨hctrl, hbuf⟩
  | false =>
    simp only [step, hr, Bool.false_eq_true, if_false] at h
    split at h
    · cases h
    · cases h
      exact ⟨hctrl, hbuf⟩
    · rename_i i u hf
      obtain ⟨hready, hsame⟩ := fetch_ready hr hf
      have hu : u.Canonical := ⟨(congrArg State.ctrl hsame :) ▸ hctrl, (congrArg State.buf hsame :) ▸ hbuf⟩
      exact hu.of_exec hready h

end Sys2Proof.Machine
end
